-- ==== Sys2Proof/Word.lean ====
section
/-! DEFINITION. Word.lean: the words of the block (00_scope.md R7, R12; 30_encoding.md R43, R45). -/

namespace Sys2Proof

/-- A value of RZC, RPS, RAO, `d0`, `d1`, `d2` or `q`: RW = 32 bits (R7, R43). -/
abbrev Word := BitVec 32

/-- A command word `cmd` (R43, R45). -/
abbrev Cmd := BitVec 16

/-- `zext_32` of one bit (R12). -/
def zext32 (b : Bool) : Word := (BitVec.ofBool b).setWidth 32

end Sys2Proof
end

