-- ==== Sys2Proof/Config.lean ====
section
/-! DEFINITION. Config.lean: the parameters of an instance, the constants of the producer contract, and the open
values of the spec as constants without a body. -/

namespace Sys2Proof

/-- The configuration parameter VARIANT (00_scope.md R2, R9). -/
inductive Variant where
  | i8080
  | pdp11
  deriving DecidableEq, Repr, Inhabited

/-- The two values of resultSize (10_state.md R20): `byte` is SZ = 0, `word` is SZ = 1 (assumption log 8). -/
inductive Size where
  | byte
  | word
  deriving DecidableEq, Repr, Inhabited

namespace Config

/-- SIZE_BYTE (00_scope.md R8). -/
def sizeByte : Word := 0x100#32

/-- SIZE_WORD (00_scope.md R8). -/
def sizeWord : Word := 0x10000#32

/-- AUXOVF_AF (00_scope.md R11): used by the external producer, by no command. -/
def auxovfAf : Word := 0x10#32

/-- AUXOVF_OF (00_scope.md R11): used by the external producer, by no command. -/
def auxovfOf : Word := 0x8080#32

/-- AUXOVF_CF (00_scope.md R11): used by the external producer, by no command. -/
def auxovfCf : Word := 0x10100#32

/-- VARIANT of the instance that `State.reset` describes: the spec leaves the choice to the instance (R9).
DESIGN CHOICE (assumption log 4), safe: no proof can see which variant it is. -/
opaque variant : Variant

/-- RESET_RZC as the n-th reset draw (70_reset_and_hazards.md R103). DESIGN CHOICE (assumption log 3), safe. -/
opaque resetRzc : Nat → Word

/-- RESET_RPS as the n-th reset draw (R103). DESIGN CHOICE (assumption log 3), safe. -/
opaque resetRps : Nat → Word

/-- RESET_RAO as the n-th reset draw (R103). DESIGN CHOICE (assumption log 3), safe. -/
opaque resetRao : Nat → Word

/-- RESET_SZ as the n-th reset draw (R103). DESIGN CHOICE (assumption log 3), safe. -/
opaque resetSz : Nat → Size

end Config

end Sys2Proof
end

