-- ==== Sys2Proof/Syntax.lean ====
section
/-! DEFINITION. Syntax.lean: the commands of the block, one constructor per row of spec/opcode_table.json. -/

namespace Sys2Proof

/-- The 13 commands (30_encoding.md R46, R57). Only WRRES has fields (R47): the four write enables, `we[0]` for RZC,
`we[1]` for RPS, `we[2]` for RAO and `we[3]` for SZ, and the size value `szv`. All other operands come from the data
ports (R48). -/
inductive Instr where
  | nop
  | wrres (we : BitVec 4) (szv : Size)
  | rdfl
  | rdcf
  | rdpf
  | rdaf
  | rdzf
  | rdsf
  | rdof
  | par
  | ldfl
  | rdsw
  | wrsw
  deriving DecidableEq, Repr

end Sys2Proof
end

