-- ==== Sys2Proof/Syntax/Statement.lean ====
section
/-! DEFINITION. Syntax/Statement.lean: the assembler's statements (30_encoding.md R54, R55), each one command with the
data it drives. They are syntax for a command's encoding and have no meaning of their own. -/

namespace Sys2Proof.Asm

/-- A number `<v>` as written (R54): hexadecimal, or decimal with an optional minus sign. -/
inductive Value where
  | hex (n : Nat)
  | dec (z : Int)
  deriving DecidableEq, Repr

/-- A named operand of WRRES (R54). -/
inductive WrresOperand where
  | zc (v : Value)
  | ps (v : Value)
  | ao (v : Value)
  | sz (size : Size)
  deriving DecidableEq, Repr

/-- The name before the `=` of an operand. -/
inductive OperandName where
  | zc
  | ps
  | ao
  | sz
  deriving DecidableEq, Repr

/-- An assembler statement: the rows of R54, then the pseudo-instructions of R55. -/
inductive Stmt where
  | nop
  | wrres (operands : List WrresOperand)
  | rdfl
  | rdcf
  | rdpf
  | rdaf
  | rdzf
  | rdsf
  | rdof
  | par (v : Value)
  | ldfl (v : Value)
  | rdsw (direct : Value)
  | wrsw (w : Value)
  | wrzc (v : Value)
  | wrps (v : Value)
  | wrao (v : Value)
  | setb
  | setw
  | ldres (r a : Value) (size : Size)
  deriving DecidableEq, Repr

def WrresOperand.name : WrresOperand → OperandName
  | .zc _ => .zc
  | .ps _ => .ps
  | .ao _ => .ao
  | .sz _ => .sz

end Sys2Proof.Asm
end

