-- ==== Sys2Proof/WellFormed.lean ====
section
/-! DEFINITION. WellFormed.lean: which commands and which assembler statements are well formed. -/

namespace Sys2Proof

/-- Every command the syntax can hold is well formed: any of the 16 values of `we` is legal, and `szv` is one bit
(30_encoding.md R47). The types of the fields are the whole check, so no command is refused here. A reserved command
word is no command, and `decode` refuses it. -/
def Instr.wf : Instr → Bool
  | .nop => true
  | .wrres _ _ => true
  | .rdfl => true
  | .rdcf => true
  | .rdpf => true
  | .rdaf => true
  | .rdzf => true
  | .rdsf => true
  | .rdof => true
  | .par => true
  | .ldfl => true
  | .rdsw => true
  | .wrsw => true

namespace Asm

/-- A number fits in 32 bits; a negative decimal has a 32-bit two's-complement pattern (R54; the lower bound is
assumption log 15). -/
def Value.wf : Value → Bool
  | .hex n => decide (n < 2 ^ 32)
  | .dec z => decide (-2 ^ 31 ≤ z ∧ z < 2 ^ 32)

def WrresOperand.wf : WrresOperand → Bool
  | .zc v => v.wf
  | .ps v => v.wf
  | .ao v => v.wf
  | .sz _ => true

/-- At most one of each named operand (R54). -/
def operandsDistinct : List WrresOperand → Bool
  | [] => true
  | o :: os => !(os.map WrresOperand.name).contains o.name && operandsDistinct os

/-- The checks of R54 on a statement: its numbers fit, and WRRES names no operand twice. -/
def Stmt.wf : Stmt → Bool
  | .nop => true
  | .wrres os => operandsDistinct os && os.all WrresOperand.wf
  | .rdfl => true
  | .rdcf => true
  | .rdpf => true
  | .rdaf => true
  | .rdzf => true
  | .rdsf => true
  | .rdof => true
  | .par v => v.wf
  | .ldfl v => v.wf
  | .rdsw v => v.wf
  | .wrsw v => v.wf
  | .wrzc v => v.wf
  | .wrps v => v.wf
  | .wrao v => v.wf
  | .setb => true
  | .setw => true
  | .ldres r a _ => r.wf && a.wf

end Asm

end Sys2Proof
end

