-- ==== Sys2Proof/Decode.lean ====
section
/-! DEFINITION. Decode.lean: from a command word to a command (30_encoding.md R45, R46, R52), total, and back. -/

namespace Sys2Proof

/-- The two encodings of `szv` and SZ: 0 = SIZE_BYTE, 1 = SIZE_WORD (R20, R45). -/
def Size.ofBit (b : Bool) : Size := if b then .word else .byte

def Size.toBit : Size → BitVec 1
  | .byte => 0#1
  | .word => 1#1

/-- Why a command word is reserved (R51): `op` for (a), `res` for (b), `fields` for (c). -/
inductive Reserved where
  /-- `op` is 0xD, 0xE or 0xF -/
  | op
  /-- `cmd[15:9]` is not 0 -/
  | res
  /-- `op` is not 0x1 and `cmd[8:4]` is not 0 -/
  | fields
  deriving DecidableEq, Repr

/-- The fields of the one format (R45). -/
def opField (cmd : Cmd) : BitVec 4 := cmd.extractLsb' 0 4
def weField (cmd : Cmd) : BitVec 4 := cmd.extractLsb' 4 4
def szvField (cmd : Cmd) : Bool := cmd.getLsbD 8
def weSzvFields (cmd : Cmd) : BitVec 5 := cmd.extractLsb' 4 5
def resField (cmd : Cmd) : BitVec 7 := cmd.extractLsb' 9 7

/-- The command that an `op` other than 0x1 selects once all fields are known to be 0 (R46). -/
def decodeOp (op : BitVec 4) : Except Reserved Instr :=
  match op.toNat with
  | 0x0 => .ok .nop
  | 0x2 => .ok .rdfl
  | 0x3 => .ok .rdcf
  | 0x4 => .ok .rdpf
  | 0x5 => .ok .rdaf
  | 0x6 => .ok .rdzf
  | 0x7 => .ok .rdsf
  | 0x8 => .ok .rdof
  | 0x9 => .ok .par
  | 0xA => .ok .ldfl
  | 0xB => .ok .rdsw
  | 0xC => .ok .wrsw
  | _ => .error .op

/-- The procedure of R52, in its order. It depends on the command word alone (R53). -/
def decode (cmd : Cmd) : Except Reserved Instr :=
  if resField cmd ≠ 0#7 then .error .res
  else if opField cmd = 0x1#4 then .ok (.wrres (weField cmd) (.ofBit (szvField cmd)))
  else if weSzvFields cmd ≠ 0#5 then .error .fields
  else decodeOp (opField cmd)

/-- The `op` of each command (R46). -/
def opOf : Instr → BitVec 4
  | .nop => 0x0#4
  | .wrres _ _ => 0x1#4
  | .rdfl => 0x2#4
  | .rdcf => 0x3#4
  | .rdpf => 0x4#4
  | .rdaf => 0x5#4
  | .rdzf => 0x6#4
  | .rdsf => 0x7#4
  | .rdof => 0x8#4
  | .par => 0x9#4
  | .ldfl => 0xA#4
  | .rdsw => 0xB#4
  | .wrsw => 0xC#4

/-- A command word from its fields, most significant first: `res`, `szv`, `we`, `op` (R45). -/
def commandWord (szv : BitVec 1) (we op : BitVec 4) : Cmd := 0#7 ++ szv ++ we ++ op

/-- The command word of a command (R45, R46, R64). -/
def encode : Instr → Cmd
  | .wrres we szv => commandWord szv.toBit we (opOf (.wrres we szv))
  | .nop => commandWord 0#1 0#4 (opOf .nop)
  | .rdfl => commandWord 0#1 0#4 (opOf .rdfl)
  | .rdcf => commandWord 0#1 0#4 (opOf .rdcf)
  | .rdpf => commandWord 0#1 0#4 (opOf .rdpf)
  | .rdaf => commandWord 0#1 0#4 (opOf .rdaf)
  | .rdzf => commandWord 0#1 0#4 (opOf .rdzf)
  | .rdsf => commandWord 0#1 0#4 (opOf .rdsf)
  | .rdof => commandWord 0#1 0#4 (opOf .rdof)
  | .par => commandWord 0#1 0#4 (opOf .par)
  | .ldfl => commandWord 0#1 0#4 (opOf .ldfl)
  | .rdsw => commandWord 0#1 0#4 (opOf .rdsw)
  | .wrsw => commandWord 0#1 0#4 (opOf .wrsw)

/-- A row of the opcode table (R57). -/
structure OpcodeRow where
  mnemonic : String
  mask : Cmd
  pattern : Cmd
  deriving DecidableEq, Repr

/-- The mnemonic of a command (R46). -/
def Instr.mnemonic : Instr → String
  | .nop => "NOP"
  | .wrres _ _ => "WRRES"
  | .rdfl => "RDFL"
  | .rdcf => "RDCF"
  | .rdpf => "RDPF"
  | .rdaf => "RDAF"
  | .rdzf => "RDZF"
  | .rdsf => "RDSF"
  | .rdof => "RDOF"
  | .par => "PAR"
  | .ldfl => "LDFL"
  | .rdsw => "RDSW"
  | .wrsw => "WRSW"

/-- spec/opcode_table.json, row by row (R57). The decoder does not use it; claims hold the decoder against it. -/
def opcodeTable : List OpcodeRow :=
  [⟨"NOP", 0xFFFF#16, 0x0000#16⟩,
   ⟨"WRRES", 0xFE0F#16, 0x0001#16⟩,
   ⟨"RDFL", 0xFFFF#16, 0x0002#16⟩,
   ⟨"RDCF", 0xFFFF#16, 0x0003#16⟩,
   ⟨"RDPF", 0xFFFF#16, 0x0004#16⟩,
   ⟨"RDAF", 0xFFFF#16, 0x0005#16⟩,
   ⟨"RDZF", 0xFFFF#16, 0x0006#16⟩,
   ⟨"RDSF", 0xFFFF#16, 0x0007#16⟩,
   ⟨"RDOF", 0xFFFF#16, 0x0008#16⟩,
   ⟨"PAR", 0xFFFF#16, 0x0009#16⟩,
   ⟨"LDFL", 0xFFFF#16, 0x000A#16⟩,
   ⟨"RDSW", 0xFFFF#16, 0x000B#16⟩,
   ⟨"WRSW", 0xFFFF#16, 0x000C#16⟩]

/-- `w` selects a row when `w & mask == match` (R57). -/
def OpcodeRow.selects (r : OpcodeRow) (w : Cmd) : Bool := w &&& r.mask = r.pattern

/-- The command word that the low `nbits` bits of `w` are, the bits above them 0 (assumption log 14). -/
def tableCommand (nbits w : Nat) : Cmd := BitVec.ofNat 16 (w % 2 ^ nbits)

/-- What this decoder reads from a row's word as spec/opcode_table.json numbers its bits. -/
def decodeTableWord (nbits w : Nat) : Option Instr := (decode (tableCommand nbits w)).toOption

end Sys2Proof
end

