-- ==== Sys2Proof/Machine/ParityRom.lean ====
section
/-! DEFINITION. Machine/ParityRom.lean: the Parity Table (40_parity.md R59 to R62). -/

namespace Sys2Proof.Machine

/-- A 256-entry, 1-bit table: entry i is bit i (10_state.md R21, 20_memory.md R33). -/
abbrev ParityTable := BitVec 256

/-- `PARITY[i]` for an 8-bit index; every index is populated (20_memory.md R33, R36). -/
def ParityTable.entry (table : ParityTable) (i : BitVec 8) : Bool := table.getLsbD i.toNat

/-- The contents of R60, in its packed rows: row 0xR is bits 16R+15 to 16R, so the last row stands first. -/
def parityRom : ParityTable :=
  0x9669#16 ++ 0x6996#16 ++ 0x6996#16 ++ 0x9669#16 ++ 0x6996#16 ++ 0x9669#16 ++ 0x9669#16 ++ 0x6996#16 ++
  0x6996#16 ++ 0x9669#16 ++ 0x9669#16 ++ 0x6996#16 ++ 0x9669#16 ++ 0x6996#16 ++ 0x6996#16 ++ 0x9669#16

end Sys2Proof.Machine
end

