-- ==== Sys2Proof/Machine/State.lean ====
section
/-! DEFINITION. Machine/State.lean: the state of one instance of the block (10_state.md R15) beside the values on its
ports (30_encoding.md R43), the configuration it runs under and what the requester has still to present. -/

namespace Sys2Proof.Machine

/-- The values on the input ports in one step (30_encoding.md R43). -/
structure Ports where
  /-- reset: 1 makes the step a reset step -/
  rst : Bool
  /-- the command word -/
  cmd : Cmd
  /-- operand 0 -/
  d0 : Word
  /-- operand 1 -/
  d1 : Word
  /-- operand 2 -/
  d2 : Word
  deriving DecidableEq, Repr

/-- A requester with nothing to do issues NOP (R44); inputs not named are driven 0 (R54). Assumption log 2. -/
def Ports.idle : Ports := { rst := false, cmd := 0x0000#16, d0 := 0#32, d1 := 0#32, d2 := 0#32 }

/-- The state. The first five fields are the block's own (R15), the next three its ports (R43), `variant` its
configuration (R9), and the last two belong to the model (assumption log 1 and 3). -/
structure State where
  /-- RZC, resultZeroCarry (R17) -/
  rzc : Word
  /-- RPS, resultParitySign (R18) -/
  rps : Word
  /-- RAO, resultAuxOverflow (R19) -/
  rao : Word
  /-- SZ, the resultSize selector (R20) -/
  sz : Size
  /-- PARITY[0..255], which nothing writes (R21) -/
  parity : ParityTable
  /-- the result output of the step last performed (R49, R111) -/
  q : Word
  /-- the illegal-command output of the step last performed (R50, R111) -/
  ill : Bool
  /-- the input values of the step last performed -/
  ports : Ports
  /-- VARIANT, which nothing writes (R9) -/
  variant : Variant
  /-- what the requester will present, the next step's inputs first (R16, R44) -/
  pending : List Ports
  /-- how many draws of the open reset contents have been made (R103) -/
  resets : Nat
  deriving DecidableEq, Repr

/-- Why a step stops with a fault: never. The block raises no exception and has no fault state, and a reserved word is
an ordinary step with `ill = 1` (60_exceptions.md R89, R90), so nothing raises one (assumption log 16). -/
inductive Fault where
  deriving DecidableEq, Repr

/-- Why a step is refused. -/
inductive Refusal where
  /-- Raised by an arm of `exec` whose command has no meaning in the model; safe, since a claim about a next state
  cannot be proved from it. No arm raises it: every command has its meaning. -/
  | notModelled (mnemonic : String)
  deriving DecidableEq, Repr

/-- An instance of variant `v` right after a reset step that left `rzc`, `rps`, `rao` and `sz` in the registers
(10_state.md R31, 70_reset_and_hazards.md R102): `q = 0`, `ill = 0`, PARITY as R60 gives it. One reset draw has been
made and the requester has presented nothing since. -/
def State.resetOf (v : Variant) (rzc rps rao : Word) (sz : Size) : State :=
  { rzc := rzc, rps := rps, rao := rao, sz := sz, parity := parityRom, q := 0#32, ill := false,
    ports := Ports.idle, variant := v, pending := [], resets := 1 }

/-- The machine right after reset. The spec leaves VARIANT and the contents of the four registers open (R9, R103), so
they are the constants without a body of Config.lean. DESIGN CHOICE (assumption log 3 and 4), safe. -/
def State.reset : State :=
  State.resetOf Config.variant (Config.resetRzc 0) (Config.resetRps 0) (Config.resetRao 0) (Config.resetSz 0)

end Sys2Proof.Machine
end

