-- ==== Sys2Proof/Machine/Flags.lean ====
section
/-! DEFINITION. Machine/Flags.lean: the six flag formulas (42_flag_reads.md R67 to R72), the packed flag word (R73) and
the seeding that makes the formulas give chosen flags (43_flag_seeding.md R78). -/

namespace Sys2Proof.Machine

/-- `nz(v)` (00_scope.md R12). -/
def nz (v : Word) : Bool := v != 0#32

/-- `z(v)` (00_scope.md R12). -/
def isZero (v : Word) : Bool := v == 0#32

/-- `size_mask(SZ)` (10_state.md R20): the carry bit of the width. -/
def sizeMask : Size → Word
  | .byte => Config.sizeByte
  | .word => Config.sizeWord

/-- `low_mask(SZ)` (R20): the operand bits of the width. -/
def lowMask (sz : Size) : Word := sizeMask sz - 1#32

/-- `sign_mask(SZ)` (R20): the sign bit of the width. -/
def signMask (sz : Size) : Word := sizeMask sz >>> 1

/-- CF (R67). -/
def carryFlag (rzc : Word) (sz : Size) : Bool := nz (rzc &&& sizeMask sz)

/-- PF (R68): the low byte at both widths. -/
def parityFlag (table : ParityTable) (rps : Word) : Bool := table.entry (rps.extractLsb' 0 8)

/-- AF (R69). -/
def auxFlag (rps rao : Word) : Bool := nz ((rps ^^^ rao) &&& 0x10#32)

/-- ZF (R70), in the architectural sense (90_conflicts.md C3). -/
def zeroFlag (rzc : Word) (sz : Size) : Bool := isZero (rzc &&& lowMask sz)

/-- SF (R71). -/
def signFlag (rps : Word) (sz : Size) : Bool := nz (rps &&& signMask sz)

/-- OF (R72); the shift is logical (R12). -/
def overflowFlag (rps rao : Word) (sz : Size) : Bool := nz ((rps ^^^ rao ^^^ (rps >>> 1)) &&& signMask sz)

/-- A value for each of the six flags. -/
structure Flags where
  cf : Bool
  pf : Bool
  af : Bool
  zf : Bool
  sf : Bool
  of : Bool
  deriving DecidableEq, Repr

/-- The six flags, recomputed from the registers at every read and stored nowhere (R22). -/
def State.flags (s : State) : Flags :=
  { cf := carryFlag s.rzc s.sz
    pf := parityFlag s.parity s.rps
    af := auxFlag s.rps s.rao
    zf := zeroFlag s.rzc s.sz
    sf := signFlag s.rps s.sz
    of := overflowFlag s.rps s.rao s.sz }

/-- CF, PF, AF, ZF and SF at their status-word positions (R73, R82): the RESULT group (R76). -/
def Flags.resultBits (f : Flags) : Word :=
  zext32 f.cf ||| zext32 f.pf <<< 2 ||| zext32 f.af <<< 4 ||| zext32 f.zf <<< 6 ||| zext32 f.sf <<< 7

/-- The packed flag word of RDFL (R73). -/
def Flags.packed (f : Flags) : Word := f.resultBits ||| zext32 f.of <<< 11

/-- Contents for RZC, RPS and RAO. -/
structure Seed where
  rzc : Word
  rps : Word
  rao : Word
  deriving DecidableEq, Repr

/-- `base` of R78: the sign bit of the width when SF is wanted. -/
def seedBase (sf : Bool) (sz : Size) : Word := if sf then signMask sz else 0#32

/-- The seeding function (R78); `table` is PARITY. -/
def seed (table : ParityTable) (f : Flags) (sz : Size) : Seed :=
  { rzc := (if f.cf then sizeMask sz else 0#32) ||| (if f.zf then 0#32 else 1#32)
    rps := seedBase f.sf sz ||| zext32 (table.entry ((seedBase f.sf sz).extractLsb' 0 8) ^^ f.pf)
    rao := (if f.af then 0x10#32 else 0#32) ||| (if f.of ^^ f.sf then signMask sz else 0#32) }

end Sys2Proof.Machine
end

