-- ==== Sys2Proof/Machine/Operands.lean ====
section
/-! DEFINITION. Machine/Operands.lean: what a command reads from the data ports (30_encoding.md R48). Bits not read here
are ignored (R48, R58). -/

namespace Sys2Proof.Machine

/-- PAR: `d0[7:0]` (40_parity.md R61, 20_memory.md R36). -/
def parityIndex (d0 : Word) : BitVec 8 := d0.extractLsb' 0 8

/-- LDFL: six flags in the layout of RDFL (43_flag_seeding.md R77). -/
def packedFlags (d0 : Word) : Flags :=
  { cf := d0.getLsbD 0
    pf := d0.getLsbD 2
    af := d0.getLsbD 4
    zf := d0.getLsbD 6
    sf := d0.getLsbD 7
    of := d0.getLsbD 11 }

/-- RESULT_MASK (44_status_word.md R82). -/
def resultMask : Word := 0x00D5#32

/-- FIXED_ONE (R82). -/
def fixedOne : Word := 0x0002#32

/-- DIRECT_MASK (R82): Interrupt-Enable, and on I8080 the internal-only Overflow bit. -/
def directMask : Variant → Word
  | .i8080 => 0x0A00#32
  | .pdp11 => 0x0200#32

/-- LEGAL_MASK (R82). -/
def legalMask (v : Variant) : Word := resultMask ||| fixedOne ||| directMask v

/-- RDSW: the direct bits that the Status Flag Model presents on `d0` (R81, R83). -/
def directBits (v : Variant) (d0 : Word) : Word := d0 &&& directMask v

/-- The OF that WRSW seeds (R85): `w[11]` on I8080, the OF before the command on PDP11. -/
def overflowToSeed (v : Variant) (w : Word) (before : Bool) : Bool :=
  match v with
  | .i8080 => w.getLsbD 11
  | .pdp11 => before

/-- WRSW: the flags to seed from the status word `w` (R84); `before` is OF before the command. -/
def statusWordFlags (v : Variant) (w : Word) (before : Bool) : Flags :=
  { cf := w.getLsbD 0
    pf := w.getLsbD 2
    af := w.getLsbD 4
    zf := w.getLsbD 6
    sf := w.getLsbD 7
    of := overflowToSeed v w before }

/-- The status word that RDSW assembles from the direct bits and the RESULT group (R83), 16 bits. -/
def statusWord (v : Variant) (d0 : Word) (f : Flags) : BitVec 16 :=
  (fixedOne ||| directBits v d0 ||| f.resultBits).extractLsb' 0 16

/-- A legal status word (R86). -/
def legalStatusWord (v : Variant) (w : BitVec 16) : Bool :=
  w.setWidth 32 &&& ~~~(legalMask v) == 0#32 && w.getLsbD 1

end Sys2Proof.Machine
end

