-- ==== Sys2Proof/Machine/Ops.lean ====
section
/-! DEFINITION. Machine/Ops.lean: the shared operations on the state. The block has no memory (20_memory.md R32) and
takes no exception (60_exceptions.md R89, R94); what a reserved word does is `State.reserved`. -/

namespace Sys2Proof.Machine

/-- The three outcomes of a step of this machine. -/
abbrev Result := Host.Outcome State Fault Refusal

/-- Drive the two outputs (30_encoding.md R43). -/
def State.output (s : State) (q : Word) (ill : Bool) : State := { s with q := q, ill := ill }

/-- A legal command completes: `q` is its result and `ill` is 0 (R49, R50), and no register of `s` changes.
DESIGN CHOICE (assumption log 19), unsafe: R56 calls NOP and WRRES with `we = 0` the only legal words with no effect on
state; PAR and the flag reads, which complete on the state they began with, follow R61, R74 and R83, where they write
none. -/
def complete (q : Word) (s : State) : Result := .next (s.output q false)

/-- A reserved command word: `q = 0`, `ill = 1`, no state changed, no trap (R51, R90). -/
def State.reserved (s : State) : State := s.output 0#32 true

/-- The register writes of WRRES (41_result_writes.md R64). All values read are those before the command, and the four
writes are one (20_memory.md R37, R41). -/
def State.writeResults (s : State) (we : BitVec 4) (szv : Size) : State :=
  { s with
    rzc := if we.getLsbD 0 then s.ports.d0 else s.rzc
    rps := if we.getLsbD 1 then s.ports.d1 else s.rps
    rao := if we.getLsbD 2 then s.ports.d2 else s.rao
    sz := if we.getLsbD 3 then szv else s.sz }

/-- The register writes of LDFL and WRSW: RZC, RPS and RAO in full, SZ unchanged (43_flag_seeding.md R80). -/
def State.seedFlags (s : State) (f : Flags) : State :=
  { s with
    rzc := (seed s.parity f s.sz).rzc
    rps := (seed s.parity f s.sz).rps
    rao := (seed s.parity f s.sz).rao }

/-- A reset step (70_reset_and_hazards.md R102): the registers take the next draw of the open reset contents (R103),
the outputs are 0, PARITY and VARIANT stay. -/
def State.resetStep (s : State) : State :=
  { s with
    rzc := Config.resetRzc s.resets
    rps := Config.resetRps s.resets
    rao := Config.resetRao s.resets
    sz := Config.resetSz s.resets
    q := 0#32
    ill := false
    resets := s.resets + 1 }

/-- The inputs of the next step: what the requester presents, or the idle NOP when it has nothing to do (R44). -/
def State.nextPorts (s : State) : Ports :=
  match s.pending with
  | [] => Ports.idle
  | p :: _ => p

/-- The next step's inputs arrive on the ports. -/
def State.present (s : State) : State := { s with ports := s.nextPorts, pending := s.pending.tail }

/-- `cmd` takes the place of the next command the requester presents, on the data it presents with it (on 0 where it
presents nothing), and that step is no reset step. -/
def State.replaceCommand (s : State) (cmd : Cmd) : State :=
  { s with pending := { s.nextPorts with rst := false, cmd := cmd } :: s.pending.tail }

end Sys2Proof.Machine
end

