-- ==== Sys2Proof/Machine/FlagReads.lean ====
section
/-! DEFINITION. Machine/FlagReads.lean: the flag reads (42_flag_reads.md). None writes a register (R74). -/

namespace Sys2Proof.Machine

/-- RDFL (R73): all six flags in one packed word, the same layout on both variants. -/
def execRdfl (s : State) : Result := complete s.flags.packed s

/-- RDCF (R67). -/
def execRdcf (s : State) : Result := complete (zext32 s.flags.cf) s

/-- RDPF (R68). -/
def execRdpf (s : State) : Result := complete (zext32 s.flags.pf) s

/-- RDAF (R69). -/
def execRdaf (s : State) : Result := complete (zext32 s.flags.af) s

/-- RDZF (R70). -/
def execRdzf (s : State) : Result := complete (zext32 s.flags.zf) s

/-- RDSF (R71). -/
def execRdsf (s : State) : Result := complete (zext32 s.flags.sf) s

/-- RDOF (R72). -/
def execRdof (s : State) : Result := complete (zext32 s.flags.of) s

end Sys2Proof.Machine
end

