-- ==== Sys2Proof/Machine/Parity.lean ====
section
/-! DEFINITION. Machine/Parity.lean: PAR (40_parity.md). -/

namespace Sys2Proof.Machine

/-- PAR (R61): the table's entry at `d0[7:0]`. -/
def execPar (s : State) : Result := complete (zext32 (s.parity.entry (parityIndex s.ports.d0))) s

end Sys2Proof.Machine
end

