-- ==== Sys2Proof/Machine/ResultWrites.lean ====
section
/-! DEFINITION. Machine/ResultWrites.lean: NOP and WRRES (41_result_writes.md). -/

namespace Sys2Proof.Machine

/-- NOP (R63). -/
def execNop (s : State) : Result := complete 0#32 s

/-- WRRES (R64); no check on the values (R65). -/
def execWrres (we : BitVec 4) (szv : Size) (s : State) : Result := complete 0#32 (s.writeResults we szv)

end Sys2Proof.Machine
end

