-- ==== Sys2Proof/Machine/Seeding.lean ====
section
/-! DEFINITION. Machine/Seeding.lean: LDFL (43_flag_seeding.md). -/

namespace Sys2Proof.Machine

/-- LDFL (R77): re-seed the engine from the packed flag word on `d0`. -/
def execLdfl (s : State) : Result := complete 0#32 (s.seedFlags (packedFlags s.ports.d0))

end Sys2Proof.Machine
end

