-- ==== Sys2Proof/Machine/StatusWord.lean ====
section
/-! DEFINITION. Machine/StatusWord.lean: RDSW and WRSW (44_status_word.md). -/

namespace Sys2Proof.Machine

/-- RDSW (R83): the status word, zero-extended. The engine's OF does not enter it (R76). -/
def execRdsw (s : State) : Result := complete ((statusWord s.variant s.ports.d0 s.flags).setWidth 32) s

/-- WRSW (R84): re-seed the engine from the status word on `d0`. -/
def execWrsw (s : State) : Result :=
  complete 0#32 (s.seedFlags (statusWordFlags s.variant s.ports.d0 s.flags.of))

end Sys2Proof.Machine
end

