-- ==== Sys2Proof/Machine/Dispatch.lean ====
section
/-! DEFINITION. Machine/Dispatch.lean: from a command to its meaning. -/

namespace Sys2Proof.Machine

/-- What a command does, its data on the ports. -/
def exec (i : Instr) (s : State) : Host.Outcome State Fault Refusal :=
  match i with
  | .nop => Sys2Proof.Machine.execNop s
  | .wrres we szv => Sys2Proof.Machine.execWrres we szv s
  | .rdfl => Sys2Proof.Machine.execRdfl s
  | .rdcf => Sys2Proof.Machine.execRdcf s
  | .rdpf => Sys2Proof.Machine.execRdpf s
  | .rdaf => Sys2Proof.Machine.execRdaf s
  | .rdzf => Sys2Proof.Machine.execRdzf s
  | .rdsf => Sys2Proof.Machine.execRdsf s
  | .rdof => Sys2Proof.Machine.execRdof s
  | .par => Sys2Proof.Machine.execPar s
  | .ldfl => Sys2Proof.Machine.execLdfl s
  | .rdsw => Sys2Proof.Machine.execRdsw s
  | .wrsw => Sys2Proof.Machine.execWrsw s

end Sys2Proof.Machine
end

