-- ==== Sys2Proof/Machine/Step.lean ====
section
/-! DEFINITION. Machine/Step.lean: one step of the block (30_encoding.md R44). -/

namespace Sys2Proof.Machine

/-- One command per step: the inputs arrive, reset wins over the command (60_exceptions.md R91), a legal command is
performed, and a reserved word only signals (R51). -/
def step (s : State) : Host.Outcome State Fault Refusal :=
  if s.present.ports.rst then .next s.present.resetStep
  else
    match decode s.present.ports.cmd with
    | .ok i => exec i s.present
    | .error _ => .next s.present.reserved

/-- `s` with the command of an opcode-table row as the one the next step performs (assumption log 14). -/
def State.withFetchWord (s : State) (nbits w : Nat) : State := s.replaceCommand (tableCommand nbits w)

end Sys2Proof.Machine
end

