-- ==== Sys2Proof/Machine/Assembler.lean ====
section
/-! DEFINITION. Machine/Assembler.lean: from an assembler statement to the input-port values it drives (30_encoding.md
R54, R55). The conventions of the text beyond the spec's words are assumption log 15. -/

namespace Sys2Proof.Asm

open Sys2Proof.Machine (Ports)

/-- The 32 bits a number stands for (R54). -/
def Value.toWord : Value → Word
  | .hex n => BitVec.ofNat 32 n
  | .dec z => BitVec.ofInt 32 z

/-- A pseudo-instruction's WRRES (R55); every other statement stands for itself. -/
def Stmt.expand : Stmt → Stmt
  | .wrzc v => .wrres [.zc v]
  | .wrps v => .wrres [.ps v]
  | .wrao v => .wrres [.ao v]
  | .setb => .wrres [.sz .byte]
  | .setw => .wrres [.sz .word]
  | .ldres r a size => .wrres [.zc r, .ps r, .ao a, .sz size]
  | .nop => .nop
  | .wrres os => .wrres os
  | .rdfl => .rdfl
  | .rdcf => .rdcf
  | .rdpf => .rdpf
  | .rdaf => .rdaf
  | .rdzf => .rdzf
  | .rdsf => .rdsf
  | .rdof => .rdof
  | .par v => .par v
  | .ldfl v => .ldfl v
  | .rdsw v => .rdsw v
  | .wrsw v => .wrsw v

/-- The command and the data of a statement; data inputs not named are 0 (R54). -/
structure Driven where
  instr : Instr
  d0 : Word := 0#32
  d1 : Word := 0#32
  d2 : Word := 0#32
  deriving DecidableEq, Repr

/-- The operands of a WRRES gathered so far. -/
structure WrresFields where
  we : BitVec 4 := 0#4
  szv : Size := .byte
  zc : Word := 0#32
  ps : Word := 0#32
  ao : Word := 0#32
  deriving DecidableEq, Repr

/-- A named operand sets its `we` bit and its value (R54). -/
def WrresFields.add (f : WrresFields) : WrresOperand → WrresFields
  | .zc v => { f with we := f.we ||| 0b0001#4, zc := v.toWord }
  | .ps v => { f with we := f.we ||| 0b0010#4, ps := v.toWord }
  | .ao v => { f with we := f.we ||| 0b0100#4, ao := v.toWord }
  | .sz size => { f with we := f.we ||| 0b1000#4, szv := size }

def WrresFields.driven (f : WrresFields) : Driven := { instr := .wrres f.we f.szv, d0 := f.zc, d1 := f.ps, d2 := f.ao }

/-- What a WRRES with these operands drives. -/
def drivenWrres (os : List WrresOperand) : Driven := (os.foldl WrresFields.add {}).driven

/-- What a statement drives, pseudo-instructions by their expansion. -/
def Stmt.driven (st : Stmt) : Driven :=
  match st.expand with
  | .nop => { instr := .nop }
  | .wrres os => drivenWrres os
  | .rdfl => { instr := .rdfl }
  | .rdcf => { instr := .rdcf }
  | .rdpf => { instr := .rdpf }
  | .rdaf => { instr := .rdaf }
  | .rdzf => { instr := .rdzf }
  | .rdsf => { instr := .rdsf }
  | .rdof => { instr := .rdof }
  | .par v => { instr := .par, d0 := v.toWord }
  | .ldfl v => { instr := .ldfl, d0 := v.toWord }
  | .rdsw v => { instr := .rdsw, d0 := v.toWord }
  | .wrsw v => { instr := .wrsw, d0 := v.toWord }
  | .wrzc v => drivenWrres [.zc v]
  | .wrps v => drivenWrres [.ps v]
  | .wrao v => drivenWrres [.ao v]
  | .setb => drivenWrres [.sz .byte]
  | .setw => drivenWrres [.sz .word]
  | .ldres r a size => drivenWrres [.zc r, .ps r, .ao a, .sz size]

def Driven.ports (d : Driven) : Ports := { rst := false, cmd := encode d.instr, d0 := d.d0, d1 := d.d1, d2 := d.d2 }

/-- The input-port values of a well-formed statement; none for an ill-formed one. -/
def assemble (st : Stmt) : Option Ports := if st.wf then some st.driven.ports else none

/-- A program: the steps' inputs, in the order of its statements. -/
def assembleProgram : List Stmt → Option (List Ports)
  | [] => some []
  | st :: rest =>
    match assemble st, assembleProgram rest with
    | some p, some ps => some (p :: ps)
    | _, _ => none

/-- The value of a digit in a base up to 16. -/
def digit (base : Nat) (c : Char) : Option Nat :=
  let n := c.toNat
  let v :=
    if 48 ≤ n ∧ n ≤ 57 then n - 48
    else if 65 ≤ n ∧ n ≤ 70 then n - 55
    else if 97 ≤ n ∧ n ≤ 102 then n - 87
    else 16
  if v < base then some v else none

def digits (base : Nat) : List Char → Nat → Option Nat
  | [], acc => some acc
  | c :: cs, acc =>
    match digit base c with
    | some d => digits base cs (acc * base + d)
    | none => none

/-- A number of at least one digit. -/
def number (base : Nat) : List Char → Option Nat
  | [] => none
  | c :: cs => digits base (c :: cs) 0

/-- `<v>`: hexadecimal `0x...` or decimal, which may be negative (R54). -/
def parseValue : List Char → Option Value
  | '0' :: 'x' :: cs => (number 16 cs).map .hex
  | '-' :: cs => (number 10 cs).map fun n => .dec (-(n : Int))
  | cs => (number 10 cs).map fun n => .dec n

def parseSize : List Char → Option Size
  | ['B'] => some .byte
  | ['W'] => some .word
  | _ => none

/-- `zc=<v>`, `ps=<v>`, `ao=<v>` or `sz=B|W` (R54). -/
def parseOperand : List Char → Option WrresOperand
  | 'z' :: 'c' :: '=' :: cs => (parseValue cs).map .zc
  | 'p' :: 's' :: '=' :: cs => (parseValue cs).map .ps
  | 'a' :: 'o' :: '=' :: cs => (parseValue cs).map .ao
  | 's' :: 'z' :: '=' :: cs => (parseSize cs).map .sz
  | _ => none

def parseOperands : List (List Char) → Option (List WrresOperand)
  | [] => some []
  | t :: ts =>
    match parseOperand t, parseOperands ts with
    | some o, some os => some (o :: os)
    | _, _ => none

/-- The statements without operands, by mnemonic. -/
def plainStatements : List (List Char × Stmt) :=
  [("NOP".toList, .nop), ("RDFL".toList, .rdfl), ("RDCF".toList, .rdcf), ("RDPF".toList, .rdpf),
   ("RDAF".toList, .rdaf), ("RDZF".toList, .rdzf), ("RDSF".toList, .rdsf), ("RDOF".toList, .rdof),
   ("SETB".toList, .setb), ("SETW".toList, .setw)]

/-- The statements of one number, by mnemonic. -/
def valueStatement (mnemonic : List Char) (v : Value) : Option Stmt :=
  ([("PAR".toList, Stmt.par v), ("LDFL".toList, .ldfl v), ("RDSW".toList, .rdsw v), ("WRSW".toList, .wrsw v),
    ("WRZC".toList, .wrzc v), ("WRPS".toList, .wrps v), ("WRAO".toList, .wrao v)]).lookup mnemonic

/-- Cut a line at its spaces and commas; `current` is the token being read, last character first. -/
def tokens : List Char → List Char → List (List Char)
  | [], current => if current.isEmpty then [] else [current.reverse]
  | c :: cs, current =>
    if c = ' ' ∨ c = ',' then (if current.isEmpty then [] else [current.reverse]) ++ tokens cs []
    else tokens cs (c :: current)

/-- A statement from its tokens: the mnemonic, then its operands (R54, R55). -/
def parseTokens : List (List Char) → Option Stmt
  | [] => none
  | mnemonic :: operands =>
    if mnemonic = "WRRES".toList then (parseOperands operands).map .wrres
    else
      match operands with
      | [] => plainStatements.lookup mnemonic
      | [v] => (parseValue v).bind (valueStatement mnemonic)
      | [r, a, size] =>
        if mnemonic = "LDRES".toList then
          match parseValue r, parseValue a, parseSize size with
          | some r, some a, some size => some (.ldres r a size)
          | _, _, _ => none
        else none
      | _ => none

/-- A statement from one line of text. -/
def parseStatement (line : String) : Option Stmt := parseTokens (tokens line.toList [])

end Sys2Proof.Asm
end

