-- ==== Sys2Proof/Safety.lean ====
section
/-! DEFINITION. Safety.lean: what a safe run is, the invariant of every state a run reaches, a requester that keeps to
the legal words, and which states no command can tell apart. -/

namespace Sys2Proof.Machine

/-- `k` steps, stopping at the first that does not go on: `Host.Core.run` on this machine's own types. -/
def run : Nat → State → Result
  | 0, s => .next s
  | k + 1, s =>
    match step s with
    | .next t => run k t
    | .fault r => .fault r
    | .refused r => .refused r

/-- A step is safe when the machine goes on (60_exceptions.md R89). -/
def SafeStep (s : State) : Prop := ∃ t, step s = .next t

/-- PARITY holds the contents of R60, which nothing ever writes (40_parity.md R62). -/
def State.RomIntact (s : State) : Prop := s.parity = parityRom

/-- The outputs have a shape that some command gives (30_encoding.md R49, R50): no result has a bit above bit 15, and an
illegal command's result is 0. -/
def State.OutputsLegal (s : State) : Prop := s.q.toNat < 2 ^ 16 ∧ (s.ill = true → s.q = 0#32)

/-- Holds after reset and after every step from a state in which it holds. -/
structure State.Inv (s : State) : Prop where
  rom : s.RomIntact
  outputs : s.OutputsLegal

/-- A command word is legal when some command is encoded so (R52). -/
def LegalWord (cmd : Cmd) : Prop := ∃ i, decode cmd = .ok i

/-- The requester presents only reset steps and legal commands: it never makes the fault of its own that `ill` would
report (60_exceptions.md R90, 93_implementation_defined.md I2). -/
def State.RequesterLegal (s : State) : Prop := ∀ p ∈ s.pending, p.rst = true ∨ LegalWord p.cmd

/-- The bits of RZC, RPS and RAO that some formula reads at some width (10_state.md R17 to R19). -/
def observableRzc : Word := 0x1FFFF#32
def observableRps : Word := 0x181FF#32
def observableRao : Word := 0x08090#32

/-- Two states that agree on every bit R27 calls observable, on PARITY and SZ, on the configuration and on what the
requester will present. They may differ in the other bits of RZC, RPS and RAO and in the values on the ports. -/
structure State.Indistinguishable (s t : State) : Prop where
  rzc : s.rzc &&& observableRzc = t.rzc &&& observableRzc
  rps : s.rps &&& observableRps = t.rps &&& observableRps
  rao : s.rao &&& observableRao = t.rao &&& observableRao
  sz : s.sz = t.sz
  parity : s.parity = t.parity
  variant : s.variant = t.variant
  pending : s.pending = t.pending
  resets : s.resets = t.resets

end Sys2Proof.Machine
end

