-- ==== Sys2Proof/Certificates/Slice0/Obligations.lean ====
section
/-! DEFINITION. Certificates/Slice0/Obligations.lean: statements for the provers, one for each rule or law of spec/ they
name. Flag values are written out in single bits of the registers, not through the model's masks. -/

namespace Sys2Proof.Machine

/-- The value for byte width or for word width. -/
def bySize {α : Type} (sz : Size) (atByte atWord : α) : α :=
  match sz with
  | .byte => atByte
  | .word => atWord

/-- The value on I8080 or on PDP11. -/
def byVariant {α : Type} (v : Variant) (onI8080 onPdp11 : α) : α :=
  match v with
  | .i8080 => onI8080
  | .pdp11 => onPdp11

/-- The number of set bits of a byte (40_parity.md R59). -/
def popcount (v : BitVec 8) : Nat := (List.range 8).countP fun k => v.getLsbD k

/-- 30_encoding.md R51 (a), (b), (c), on the bits of the command word. -/
def ReservedShape (cmd : Cmd) : Prop :=
  13 ≤ cmd.toNat % 16 ∨ cmd.toNat / 512 ≠ 0 ∨ (cmd.toNat % 16 ≠ 1 ∧ cmd.toNat / 16 % 32 ≠ 0)

/-- The commands that read flags (10_state.md R23). -/
def isFlagRead : Instr → Bool
  | .rdfl => true
  | .rdcf => true
  | .rdpf => true
  | .rdaf => true
  | .rdzf => true
  | .rdsf => true
  | .rdof => true
  | .rdsw => true
  | .nop => false
  | .wrres _ _ => false
  | .par => false
  | .ldfl => false
  | .wrsw => false

/-- The command word is one that re-seeds the engine (R23). -/
def SeedingCommand (cmd : Cmd) : Prop := decode cmd = .ok .ldfl ∨ decode cmd = .ok .wrsw

/-- `p` and `p'` agree on every data bit that R48 says the command reads. -/
def SameDataRead (v : Variant) (i : Instr) (p p' : Ports) : Prop :=
  match i with
  | .wrres we _ =>
    (we.getLsbD 0 = true → p.d0 = p'.d0) ∧ (we.getLsbD 1 = true → p.d1 = p'.d1) ∧ (we.getLsbD 2 = true → p.d2 = p'.d2)
  | .par => p.d0.toNat % 256 = p'.d0.toNat % 256
  | .ldfl => p.d0 &&& 0x8D5#32 = p'.d0 &&& 0x8D5#32
  | .rdsw => p.d0 &&& byVariant v 0x0A00#32 0x0200#32 = p'.d0 &&& byVariant v 0x0A00#32 0x0200#32
  | .wrsw => p.d0 &&& byVariant v 0x08D5#32 0x00D5#32 = p'.d0 &&& byVariant v 0x08D5#32 0x00D5#32
  | .nop => True
  | .rdfl => True
  | .rdcf => True
  | .rdpf => True
  | .rdaf => True
  | .rdzf => True
  | .rdsf => True
  | .rdof => True

/-- An n-bit pattern read as a two's-complement number. -/
def signedValue (n a : Nat) : Int := if a < 2 ^ (n - 1) then (a : Int) else (a : Int) - 2 ^ n

/-- The number lies in the n-bit two's-complement range. -/
def inSignedRange (n : Nat) (z : Int) : Prop := -(2 ^ (n - 1) : Int) ≤ z ∧ z < 2 ^ (n - 1)

end Sys2Proof.Machine

open Sys2Proof Sys2Proof.Machine

/-! ## The step and the decoder -/

/-- R44: a step presents the requester's next inputs and runs the command they hold. -/
def Obligations.StepRunsTheDecodedCommand : Prop :=
  ∀ (s : State) (p : Ports) (rest : List Ports) (i : Instr),
    s.pending = p :: rest → p.rst = false → i.wf = true → decode p.cmd = .ok i →
      step s = exec i { s with ports := p, pending := rest }

/-- R44, R63: a requester with nothing to do issues NOP. -/
def Obligations.IdleStepIsNop : Prop :=
  ∀ s : State, s.pending = [] → step s = .next { s with ports := Ports.idle, q := 0#32, ill := false }

/-- R51, R90: a reserved word only signals, and every other word is a command. -/
def Obligations.ReservedWordOnlySignals : Prop :=
  (∀ (s : State) (p : Ports) (rest : List Ports),
    s.pending = p :: rest → p.rst = false → ReservedShape p.cmd →
      step s = .next { s with ports := p, pending := rest, q := 0#32, ill := true }) ∧
  ∀ cmd : Cmd, LegalWord cmd ↔ ¬ReservedShape cmd

/-- R50: `ill` reports exactly a reserved word presented in a step that is no reset step. -/
def Obligations.IllegalOutputExactlyOnReservedWord : Prop :=
  ∀ s : State, ∃ t, step s = .next t ∧
    (t.ill = true ↔ s.nextPorts.rst = false ∧ ReservedShape s.nextPorts.cmd) ∧
    (t.ill = true → t.rzc = s.rzc ∧ t.rps = s.rps ∧ t.rao = s.rao ∧ t.sz = s.sz ∧ t.parity = s.parity ∧
      t.variant = s.variant ∧ t.resets = s.resets)

/-- R15, R90: the values on the ports are no state. What a step does depends on none of them. -/
def Obligations.PortValuesAreNotState : Prop :=
  ∀ (s : State) (q : Word) (ill : Bool) (p : Ports), step { s with q := q, ill := ill, ports := p } = step s

/-- R44, R89: no step stops, whatever the state and the inputs, and so no run does. -/
def Obligations.EveryStepCompletes : Prop :=
  (∀ s : State, ∃ t, step s = .next t ∧ t.ports = s.nextPorts ∧ t.pending = s.pending.tail) ∧
  ∀ (k : Nat) (s : State), ∃ t, run k s = .next t

/-- R89, R50: every command completes in every state, with `ill = 0`, and touches neither PARITY, VARIANT, the input
ports nor what the requester has still to present. -/
def Obligations.EveryCommandCompletes : Prop :=
  ∀ (i : Instr) (s : State), ∃ t, exec i s = .next t ∧ t.ill = false ∧ t.parity = s.parity ∧ t.variant = s.variant ∧
    t.ports = s.ports ∧ t.pending = s.pending ∧ t.resets = s.resets

/-- R45, R46: decoding the encoding of a command gives it back, with every field at every value. -/
def Obligations.DecodeOfEncodeIsTheCommand : Prop :=
  ∀ i : Instr, i.wf = true → decode (encode i) = .ok i

/-- R52: a legal word is the encoding of the command it decodes to, so no command has two words. -/
def Obligations.LegalWordIsItsCommandsEncoding : Prop :=
  ∀ (cmd : Cmd) (i : Instr), decode cmd = .ok i → encode i = cmd

/-- R52: 32 legal WRRES words and 12 legal words of the other commands. -/
def Obligations.ThirtyTwoWrresWordsAndTwelveOthers : Prop :=
  ∃ wrres others : List Cmd, wrres.length = 32 ∧ wrres.Nodup ∧ others.length = 12 ∧ others.Nodup ∧
    (∀ w, w ∈ wrres ↔ ∃ we szv, decode w = .ok (.wrres we szv)) ∧
    ∀ w, w ∈ others ↔ ∃ i, decode w = .ok i ∧ ∀ we szv, i ≠ .wrres we szv

/-- R57: exactly the decoded command's row of the opcode table selects a legal word, and no row a reserved one. -/
def Obligations.OpcodeTableSelectsTheDecodedRow : Prop :=
  ∀ w : Cmd,
    (∀ i, decode w = .ok i → (opcodeTable.filter fun r => r.selects w).map OpcodeRow.mnemonic = [i.mnemonic]) ∧
    (∀ r, decode w = .error r → opcodeTable.filter (fun r => r.selects w) = [])

/-- R54, R55, R46: words written out in the spec decode to what they stand for. -/
def Obligations.WrittenOutWordsDecode : Prop :=
  decode 0b0000000011110001#16 = .ok (.wrres 0b1111#4 .byte) ∧
  decode 0b0000000110000001#16 = .ok (.wrres 0b1000#4 .word) ∧
  decode 0b0000000001000001#16 = .ok (.wrres 0b0100#4 .byte) ∧
  decode 0b0000000000001000#16 = .ok .rdof ∧
  decode 0b0000000000001001#16 = .ok .par ∧
  decode 0b0000000000001010#16 = .ok .ldfl ∧
  decode 0b0000000000001100#16 = .ok .wrsw ∧
  decode 0b0000000000001101#16 = .error .op ∧
  decode 0b1000000000000001#16 = .error .res ∧
  decode 0b0000000011111010#16 = .error .fields

/-! ## Reset and the invariant -/

/-- R102, R103, R91: a reset step ignores the command and its data and loads the next draw of the open contents. That
the draw is `Config.reset… n` of a counter is the model's choice (assumption log 3). -/
def Obligations.ResetStepLoadsTheDraw : Prop :=
  ∀ (s : State) (p : Ports) (rest : List Ports), s.pending = p :: rest → p.rst = true →
    step s = .next { s with
      rzc := Config.resetRzc s.resets, rps := Config.resetRps s.resets, rao := Config.resetRao s.resets
      sz := Config.resetSz s.resets, q := 0#32, ill := false, ports := p, pending := rest, resets := s.resets + 1 }

/-- R31: after reset the outputs are 0, PARITY has its contents, and the registers hold the first draw, which is the
model's free value (assumption log 3). -/
def Obligations.ResetStateFields : Prop :=
  State.reset.q = 0#32 ∧ State.reset.ill = false ∧ (∀ i : BitVec 8, State.reset.parity.getLsbD i.toNat =
    decide (popcount i % 2 = 0)) ∧
  State.reset.rzc = Config.resetRzc 0 ∧ State.reset.rps = Config.resetRps 0 ∧ State.reset.rao = Config.resetRao 0 ∧
  State.reset.sz = Config.resetSz 0

/-- Every state right after reset, of either variant and with any contents, has the invariant. -/
def Obligations.ResetMeetsTheInvariant : Prop :=
  State.reset.Inv ∧ ∀ (v : Variant) (rzc rps rao : Word) (sz : Size), (State.resetOf v rzc rps rao sz).Inv

/-- R62, R49, R50: every step from a state with the invariant gives a state with it. -/
def Obligations.EveryStepKeepsTheInvariant : Prop :=
  ∀ s t : State, s.Inv → step s = .next t → t.Inv

/-- R9, R62, R104: no step writes VARIANT or PARITY, a reset step neither. -/
def Obligations.NoStepWritesVariantOrParity : Prop :=
  ∀ s t : State, step s = .next t → t.variant = s.variant ∧ t.parity = s.parity

/-- R20: SZ is written only by WRRES with `we[3] = 1` and by reset. -/
def Obligations.SizeWrittenOnlyByWrresAndReset : Prop :=
  ∀ s t : State, step s = .next t → t.sz ≠ s.sz →
    s.nextPorts.rst = true ∨
    ∃ we szv, decode s.nextPorts.cmd = .ok (.wrres we szv) ∧ we.getLsbD 3 = true ∧ t.sz = szv

/-- R17, R18, R19, R23: which commands can change a register, and which a flag. -/
def Obligations.RegistersAndFlagsChangeOnlyBy : Prop :=
  ∀ s t : State, step s = .next t → s.nextPorts.rst = false →
    (t.rzc ≠ s.rzc → SeedingCommand s.nextPorts.cmd ∨ ∃ we szv, decode s.nextPorts.cmd = .ok (.wrres we szv) ∧ we.getLsbD 0 = true) ∧
    (t.rps ≠ s.rps → SeedingCommand s.nextPorts.cmd ∨ ∃ we szv, decode s.nextPorts.cmd = .ok (.wrres we szv) ∧ we.getLsbD 1 = true) ∧
    (t.rao ≠ s.rao → SeedingCommand s.nextPorts.cmd ∨ ∃ we szv, decode s.nextPorts.cmd = .ok (.wrres we szv) ∧ we.getLsbD 2 = true) ∧
    (t.flags ≠ s.flags → SeedingCommand s.nextPorts.cmd ∨ ∃ we szv, decode s.nextPorts.cmd = .ok (.wrres we szv) ∧ we ≠ 0#4)

/-- R105: every combination of the six flags is the flags of some reset contents, at either width. -/
def Obligations.SomeResetContentsGiveEachFlagCombination : Prop :=
  ∀ (v : Variant) (f : Flags) (sz : Size), ∃ rzc rps rao, (State.resetOf v rzc rps rao sz).flags = f

/-! ## The Parity Table -/

/-- R60: the full contents, by popcount, by packed row and by count. -/
def Obligations.ParityTableContents : Prop :=
  (∀ v : BitVec 8, parityRom.getLsbD v.toNat = decide (popcount v % 2 = 0)) ∧
  (∀ r : BitVec 4, parityRom.extractLsb' (16 * r.toNat) 16 =
    if popcount (r.setWidth 8) % 2 = 0 then 0x9669#16 else 0x6996#16) ∧
  (∀ r c : BitVec 4, parityRom.getLsbD (16 * r.toNat + c.toNat) =
    (parityRom.getLsbD r.toNat == parityRom.getLsbD c.toNat)) ∧
  (List.range 256).countP (fun i => parityRom.getLsbD i) = 128

/-- R61: PAR, its encoding, its result and its frame; on the low byte of RPS it is RDPF. -/
def Obligations.ParLooksUpParity : Prop :=
  decode 0x0009#16 = .ok .par ∧
  (∀ s : State, exec .par s =
    .next { s with q := if s.parity.getLsbD (s.ports.d0.toNat % 256) then 1#32 else 0#32, ill := false }) ∧
  (∀ s : State, s.RomIntact → exec .par s =
    .next { s with q := if popcount (s.ports.d0.setWidth 8) % 2 = 0 then 1#32 else 0#32, ill := false }) ∧
  ∀ s : State, s.ports.d0.toNat % 256 = s.rps.toNat % 256 → exec .par s = exec .rdpf s

/-! ## NOP and WRRES -/

/-- R63: NOP. -/
def Obligations.NopDoesNothing : Prop :=
  decode 0x0000#16 = .ok .nop ∧ ∀ s : State, exec .nop s = .next { s with q := 0#32, ill := false }

/-- R64: WRRES, its encoding, its writes, its frame, and which flags each write can change. -/
def Obligations.WrresWritesTheEnabledRegisters : Prop :=
  (∀ cmd : Cmd, cmd &&& 0xFE0F#16 = 0x0001#16 →
    decode cmd = .ok (.wrres (cmd.extractLsb' 4 4) (if cmd.getLsbD 8 then .word else .byte))) ∧
  (∀ (we : BitVec 4) (szv : Size) (s : State), exec (.wrres we szv) s = .next { s with
    rzc := if we.getLsbD 0 then s.ports.d0 else s.rzc
    rps := if we.getLsbD 1 then s.ports.d1 else s.rps
    rao := if we.getLsbD 2 then s.ports.d2 else s.rao
    sz := if we.getLsbD 3 then szv else s.sz
    q := 0#32
    ill := false }) ∧
  ∀ (we : BitVec 4) (szv : Size) (s t : State), exec (.wrres we szv) s = .next t →
    (we.getLsbD 0 = false → we.getLsbD 3 = false → t.flags.cf = s.flags.cf ∧ t.flags.zf = s.flags.zf) ∧
    (we.getLsbD 1 = false → t.flags.pf = s.flags.pf) ∧
    (we.getLsbD 1 = false → we.getLsbD 2 = false → t.flags.af = s.flags.af) ∧
    (we.getLsbD 1 = false → we.getLsbD 3 = false → t.flags.sf = s.flags.sf) ∧
    (we.getLsbD 1 = false → we.getLsbD 2 = false → we.getLsbD 3 = false → t.flags.of = s.flags.of) ∧
    (we = 0#4 → exec (.wrres we szv) s = exec .nop s)

/-- R66 (a): the register contents of an addition give the arithmetic flags of the addition. -/
def Obligations.AdditionShapeGivesAdditionFlags : Prop :=
  ∀ (s : State) (sz : Size) (a b : Nat), s.RomIntact → a < 2 ^ bySize sz 8 16 → b < 2 ^ bySize sz 8 16 →
    s.ports.d0 = BitVec.ofNat 32 (a + b) → s.ports.d1 = BitVec.ofNat 32 (a + b) →
    s.ports.d2 = BitVec.ofNat 32 a ^^^ BitVec.ofNat 32 b →
    ∃ t, exec (.wrres 0b1111#4 sz) s = .next t ∧
      (t.flags.cf = true ↔ 2 ^ bySize sz 8 16 ≤ a + b) ∧
      (t.flags.zf = true ↔ (a + b) % 2 ^ bySize sz 8 16 = 0) ∧
      (t.flags.sf = true ↔ (a + b).testBit (bySize sz 7 15) = true) ∧
      (t.flags.pf = true ↔ popcount (BitVec.ofNat 8 (a + b)) % 2 = 0) ∧
      (t.flags.af = true ↔ 16 ≤ a % 16 + b % 16) ∧
      (t.flags.of = true ↔ ¬inSignedRange (bySize sz 8 16)
        (signedValue (bySize sz 8 16) a + signedValue (bySize sz 8 16) b))

/-- R66 (b): the register contents of a subtraction give the arithmetic flags of the subtraction. -/
def Obligations.SubtractionShapeGivesSubtractionFlags : Prop :=
  ∀ (s : State) (sz : Size) (a b : Nat), s.RomIntact → a < 2 ^ bySize sz 8 16 → b < 2 ^ bySize sz 8 16 →
    s.ports.d0 = BitVec.ofInt 32 ((a : Int) - b) → s.ports.d1 = BitVec.ofInt 32 ((a : Int) - b) →
    s.ports.d2 = BitVec.ofNat 32 a ^^^ BitVec.ofNat 32 b →
    ∃ t, exec (.wrres 0b1111#4 sz) s = .next t ∧
      (t.flags.cf = true ↔ a < b) ∧
      (t.flags.zf = true ↔ a = b) ∧
      (t.flags.sf = true ↔ ((a + 2 ^ bySize sz 8 16 - b) % 2 ^ bySize sz 8 16).testBit (bySize sz 7 15) = true) ∧
      (t.flags.pf = true ↔ popcount (BitVec.ofInt 8 ((a : Int) - b)) % 2 = 0) ∧
      (t.flags.af = true ↔ a % 16 < b % 16) ∧
      (t.flags.of = true ↔ ¬inSignedRange (bySize sz 8 16)
        (signedValue (bySize sz 8 16) a - signedValue (bySize sz 8 16) b))

/-- R66 (c): the register contents of a logical result clear CF, AF and OF. -/
def Obligations.LogicalShapeGivesLogicalFlags : Prop :=
  ∀ (s : State) (sz : Size) (r : Nat), s.RomIntact → r < 2 ^ bySize sz 8 16 →
    s.ports.d0 = BitVec.ofNat 32 r → s.ports.d1 = BitVec.ofNat 32 r → s.ports.d2 = BitVec.ofNat 32 r →
    ∃ t, exec (.wrres 0b1111#4 sz) s = .next t ∧
      t.flags.cf = false ∧ t.flags.af = false ∧ t.flags.of = false ∧
      (t.flags.zf = true ↔ r = 0) ∧
      (t.flags.sf = true ↔ 2 ^ bySize sz 7 15 ≤ r) ∧
      (t.flags.pf = true ↔ popcount (BitVec.ofNat 8 r) % 2 = 0)

/-- R29: what each AUXOVF constant does to the flags when it is XORed into RAO, and an addition that does otherwise. -/
def Obligations.AuxovfConstantsInRao : Prop :=
  (∀ s : State, State.flags { s with rao := s.rao ^^^ Config.auxovfAf } = { s.flags with af := !s.flags.af }) ∧
  (∀ s : State, State.flags { s with rao := s.rao ^^^ Config.auxovfOf } = { s.flags with of := !s.flags.of }) ∧
  (∀ s : State, State.flags { s with rao := s.rao ^^^ Config.auxovfCf } = s.flags) ∧
  ∀ s : State, s.sz = .byte → s.rao = 0xF0#32 →
    (State.flags { s with rao := s.rao + Config.auxovfAf }).of = !s.flags.of

/-- R108: between separate writes of RZC and RPS the flags mix the new and the old result; all six flags after each. -/
def Obligations.SeparateWritesMixFlags : Prop :=
  ∀ (s : State) (szv : Size),
    (∃ t, exec (.wrres 0b0001#4 szv) s = .next t ∧
      t.flags = { s.flags with
        cf := bySize s.sz (s.ports.d0.getLsbD 8) (s.ports.d0.getLsbD 16)
        zf := decide (s.ports.d0.toNat % bySize s.sz 256 65536 = 0) }) ∧
    ∃ t, exec (.wrres 0b0010#4 szv) s = .next t ∧
      t.flags = { s.flags with
        pf := s.parity.getLsbD (s.ports.d1.toNat % 256)
        af := s.ports.d1.getLsbD 4 ^^ s.rao.getLsbD 4
        sf := bySize s.sz (s.ports.d1.getLsbD 7) (s.ports.d1.getLsbD 15)
        of := bySize s.sz (s.ports.d1.getLsbD 7 ^^ s.rao.getLsbD 7 ^^ s.ports.d1.getLsbD 8)
          (s.ports.d1.getLsbD 15 ^^ s.rao.getLsbD 15 ^^ s.ports.d1.getLsbD 16) }

/-- R109: writing SZ alone reads the old contents at the new width. -/
def Obligations.WidthChangeReinterpretsRegisters : Prop :=
  ∀ (s : State) (szv : Size), ∃ t, exec (.wrres 0b1000#4 szv) s = .next t ∧
    t = { s with sz := szv, q := 0#32, ill := false } ∧
    t.flags.cf = bySize szv (s.rzc.getLsbD 8) (s.rzc.getLsbD 16) ∧
    t.flags.zf = decide (s.rzc.toNat % bySize szv 256 65536 = 0) ∧
    t.flags.sf = bySize szv (s.rps.getLsbD 7) (s.rps.getLsbD 15) ∧
    t.flags.of = bySize szv (s.rps.getLsbD 7 ^^ s.rao.getLsbD 7 ^^ s.rps.getLsbD 8)
      (s.rps.getLsbD 15 ^^ s.rao.getLsbD 15 ^^ s.rps.getLsbD 16) ∧
    t.flags.pf = s.flags.pf ∧ t.flags.af = s.flags.af

/-! ## The flag reads -/

/-- R67: RDCF, its encoding, its result and its frame. -/
def Obligations.RdcfReadsCarry : Prop :=
  decode 0x0003#16 = .ok .rdcf ∧ ∀ s : State, exec .rdcf s = .next { s with
    q := if bySize s.sz (s.rzc.getLsbD 8) (s.rzc.getLsbD 16) then 1#32 else 0#32, ill := false }

/-- R68: RDPF, its encoding, its result and its frame; the low byte at both widths. -/
def Obligations.RdpfReadsParity : Prop :=
  decode 0x0004#16 = .ok .rdpf ∧
  (∀ s : State, exec .rdpf s =
    .next { s with q := if s.parity.getLsbD (s.rps.toNat % 256) then 1#32 else 0#32, ill := false }) ∧
  ∀ s : State, s.RomIntact → exec .rdpf s =
    .next { s with q := if popcount (s.rps.setWidth 8) % 2 = 0 then 1#32 else 0#32, ill := false }

/-- R69: RDAF, its encoding, its result and its frame. -/
def Obligations.RdafReadsAuxiliaryCarry : Prop :=
  decode 0x0005#16 = .ok .rdaf ∧ ∀ s : State, exec .rdaf s =
    .next { s with q := if s.rps.getLsbD 4 ^^ s.rao.getLsbD 4 then 1#32 else 0#32, ill := false }

/-- R70: RDZF, its encoding, its result and its frame; ZF is 1 when the operand bits of RZC are all 0. -/
def Obligations.RdzfReadsZero : Prop :=
  decode 0x0006#16 = .ok .rdzf ∧ ∀ s : State, exec .rdzf s =
    .next { s with q := if s.rzc.toNat % bySize s.sz 256 65536 = 0 then 1#32 else 0#32, ill := false }

/-- R71: RDSF, its encoding, its result and its frame. -/
def Obligations.RdsfReadsSign : Prop :=
  decode 0x0007#16 = .ok .rdsf ∧ ∀ s : State, exec .rdsf s = .next { s with
    q := if bySize s.sz (s.rps.getLsbD 7) (s.rps.getLsbD 15) then 1#32 else 0#32, ill := false }

/-- R72: RDOF, its encoding, its result and its frame. -/
def Obligations.RdofReadsOverflow : Prop :=
  decode 0x0008#16 = .ok .rdof ∧ ∀ s : State, exec .rdof s = .next { s with
    q := if bySize s.sz (s.rps.getLsbD 7 ^^ s.rao.getLsbD 7 ^^ s.rps.getLsbD 8)
      (s.rps.getLsbD 15 ^^ s.rao.getLsbD 15 ^^ s.rps.getLsbD 16) then 1#32 else 0#32, ill := false }

/-- R73: RDFL, its encoding, its packed result bit by bit and its frame; every value within 0x8D5 is read in some state. -/
def Obligations.RdflPacksTheSixFlags : Prop :=
  decode 0x0002#16 = .ok .rdfl ∧
  (∀ s : State, ∃ v : Word, exec .rdfl s = .next { s with q := v, ill := false } ∧
    v.getLsbD 0 = s.flags.cf ∧ v.getLsbD 2 = s.flags.pf ∧ v.getLsbD 4 = s.flags.af ∧ v.getLsbD 6 = s.flags.zf ∧
    v.getLsbD 7 = s.flags.sf ∧ v.getLsbD 11 = s.flags.of ∧ v &&& 0x8D5#32 = v) ∧
  ∀ v : Word, v &&& 0x8D5#32 = v → ∃ s t : State, s.RomIntact ∧ exec .rdfl s = .next t ∧ t.q = v

/-- R75: the bits each flag reads, at each width. -/
def Obligations.FlagsReadOnlyTheListedBits : Prop :=
  ∀ s : State,
    s.flags.cf = bySize s.sz (s.rzc.getLsbD 8) (s.rzc.getLsbD 16) ∧
    s.flags.zf = decide (s.rzc.toNat % bySize s.sz 256 65536 = 0) ∧
    s.flags.pf = s.parity.getLsbD (s.rps.toNat % 256) ∧
    s.flags.sf = bySize s.sz (s.rps.getLsbD 7) (s.rps.getLsbD 15) ∧
    s.flags.af = (s.rps.getLsbD 4 ^^ s.rao.getLsbD 4) ∧
    s.flags.of = bySize s.sz (s.rps.getLsbD 8 ^^ s.rps.getLsbD 7 ^^ s.rao.getLsbD 7)
      (s.rps.getLsbD 16 ^^ s.rps.getLsbD 15 ^^ s.rao.getLsbD 15)

/-- R74: the flag reads write no state, a second read agrees with the first, and the flags are a function of the four
registers and the table. -/
def Obligations.FlagReadsArePure : Prop :=
  (∀ (i : Instr) (s : State), isFlagRead i = true → ∃ v : Word, exec i s = .next { s with q := v, ill := false } ∧
    exec i { s with q := v, ill := false } = .next { s with q := v, ill := false }) ∧
  ∀ s u : State, s.rzc = u.rzc → s.rps = u.rps → s.rao = u.rao → s.sz = u.sz → s.parity = u.parity → s.flags = u.flags

/-- R27: states that agree on the observable bits give the same outputs to whatever is presented, now and in every later
step. -/
def Obligations.UnobservableBitsStayUnobservable : Prop :=
  (∀ s t : State, s.Indistinguishable t → ∃ s' t', step s = .next s' ∧ step t = .next t' ∧
    s'.q = t'.q ∧ s'.ill = t'.ill ∧ s'.Indistinguishable t') ∧
  ∀ (k : Nat) (s t s' t' : State), s.Indistinguishable t → run (k + 1) s = .next s' →
    run (k + 1) t = .next t' → s'.q = t'.q ∧ s'.ill = t'.ill

/-- R76: the engine's OF is read by RDOF and RDFL alone. Flipping it in RAO changes no other command's result. -/
def Obligations.EngineOverflowSeenOnlyByRdofAndRdfl : Prop :=
  ∀ (i : Instr) (s : State), ∃ t u : State,
    exec i s = .next t ∧ exec i { s with rao := s.rao ^^^ 0x8080#32 } = .next u ∧
    (t.q ≠ u.q ↔ i = .rdof ∨ i = .rdfl)

/-! ## Seeding -/

/-- R78 (the contents are the spec's decision D17): LDFL, its encoding, the seeded contents and its frame. -/
def Obligations.LdflSeedsTheRegisters : Prop :=
  decode 0x000A#16 = .ok .ldfl ∧
  ∀ s : State, s.RomIntact → exec .ldfl s = .next { s with
    rzc := (if s.ports.d0.getLsbD 0 then bySize s.sz 0x100#32 0x10000#32 else 0#32) +
      (if s.ports.d0.getLsbD 6 then 0#32 else 1#32)
    rps := if s.ports.d0.getLsbD 7
      then (if s.ports.d0.getLsbD 2 then bySize s.sz 0x0081#32 0x8000#32 else bySize s.sz 0x0080#32 0x8001#32)
      else (if s.ports.d0.getLsbD 2 then 0x0000#32 else 0x0001#32)
    rao := (if s.ports.d0.getLsbD 4 then 0x10#32 else 0#32) +
      (if s.ports.d0.getLsbD 11 ^^ s.ports.d0.getLsbD 7 then bySize s.sz 0x80#32 0x8000#32 else 0#32)
    q := 0#32
    ill := false }

/-- R79: after a seed every flag equals its input, and RDFL returns the flags just loaded. -/
def Obligations.SeededFlagsAreTheInputs : Prop :=
  ∀ s : State, s.RomIntact → ∃ t, exec .ldfl s = .next t ∧
    t.flags.cf = s.ports.d0.getLsbD 0 ∧ t.flags.pf = s.ports.d0.getLsbD 2 ∧ t.flags.af = s.ports.d0.getLsbD 4 ∧
    t.flags.zf = s.ports.d0.getLsbD 6 ∧ t.flags.sf = s.ports.d0.getLsbD 7 ∧ t.flags.of = s.ports.d0.getLsbD 11 ∧
    exec .rdfl t = .next { t with q := s.ports.d0 &&& 0x8D5#32, ill := false }

/-- R80, R109, on the seed of the spec's decisions D17 and D18: a change of width after a seed loses CF, SF and OF, and
ZF too where CF was seeded at byte width; PF and AF stay. All six flags. -/
def Obligations.WidthChangeAfterSeedLosesFlags : Prop :=
  ∀ s : State, s.RomIntact → ∃ t u, exec .ldfl s = .next t ∧
    exec (.wrres 0b1000#4 (bySize s.sz .word .byte)) t = .next u ∧ t.sz = s.sz ∧
    u.flags = { cf := false, pf := s.ports.d0.getLsbD 2, af := s.ports.d0.getLsbD 4,
                zf := bySize s.sz (!s.ports.d0.getLsbD 0 && s.ports.d0.getLsbD 6) (s.ports.d0.getLsbD 6),
                sf := false, of := false }

/-! ## The status word -/

/-- R83: RDSW, its encoding, the word it assembles bit by bit and its frame. -/
def Obligations.RdswAssemblesTheStatusWord : Prop :=
  decode 0x000B#16 = .ok .rdsw ∧
  ∀ s : State, ∃ v : Word, exec .rdsw s = .next { s with q := v, ill := false } ∧
    v.getLsbD 0 = s.flags.cf ∧ v.getLsbD 1 = true ∧ v.getLsbD 2 = s.flags.pf ∧ v.getLsbD 3 = false ∧
    v.getLsbD 4 = s.flags.af ∧ v.getLsbD 5 = false ∧ v.getLsbD 6 = s.flags.zf ∧ v.getLsbD 7 = s.flags.sf ∧
    v.getLsbD 8 = false ∧ v.getLsbD 9 = s.ports.d0.getLsbD 9 ∧ v.getLsbD 10 = false ∧
    v.getLsbD 11 = byVariant s.variant (s.ports.d0.getLsbD 11) false ∧ v.toNat < 2 ^ 12

/-- R84, R85: WRSW, its encoding, the flags it leaves, its frame, and the LDFL it is equivalent to. -/
def Obligations.WrswSeedsFromTheStatusWord : Prop :=
  decode 0x000C#16 = .ok .wrsw ∧
  ∀ s : State, s.RomIntact → ∃ t, exec .wrsw s = .next t ∧
    t = { s with rzc := t.rzc, rps := t.rps, rao := t.rao, q := 0#32, ill := false } ∧
    t.flags = { cf := s.ports.d0.getLsbD 0, pf := s.ports.d0.getLsbD 2, af := s.ports.d0.getLsbD 4,
                zf := s.ports.d0.getLsbD 6, sf := s.ports.d0.getLsbD 7,
                of := byVariant s.variant (s.ports.d0.getLsbD 11) s.flags.of } ∧
    exec .ldfl { s with ports := { s.ports with d0 := (s.ports.d0 &&& 0xD5#32) |||
      (if byVariant s.variant (s.ports.d0.getLsbD 11) s.flags.of then 0x800#32 else 0#32) } } =
      .next { t with ports := { s.ports with d0 := (s.ports.d0 &&& 0xD5#32) |||
        (if byVariant s.variant (s.ports.d0.getLsbD 11) s.flags.of then 0x800#32 else 0#32) } }

/-- R86: the legal status words are 0x0002 with any subset of the RESULT and direct bits, 128 or 64 of them. -/
def Obligations.LegalStatusWordsAreCounted : Prop :=
  ∀ v : Variant,
    (∀ w : BitVec 16, legalStatusWord v w = true ↔
      ∃ x : BitVec 16, x &&& byVariant v 0x0AD5#16 0x02D5#16 = x ∧ w = 0x0002#16 ||| x) ∧
    ∃ ws : List (BitVec 16), ws.length = byVariant v 128 64 ∧ ws.Nodup ∧
      ∀ w, w ∈ ws ↔ w &&& ~~~(byVariant v 0x0AD7#16 0x02D7#16) = 0#16 ∧ w.getLsbD 1 = true

/-- R87: writing a status word and reading it back, the direct bits kept by the Status Flag Model in between. -/
def Obligations.StatusWordRoundTrip : Prop :=
  ∀ (s : State) (w : BitVec 16) (a b c d : Word) (rest : List Ports), s.RomIntact →
    s.pending =
      { rst := false, cmd := 0x000C#16, d0 := w.setWidth 32, d1 := a, d2 := b } ::
      { rst := false, cmd := 0x000B#16, d0 := (w &&& byVariant s.variant 0x0A00#16 0x0200#16).setWidth 32,
        d1 := c, d2 := d } :: rest →
    ∃ t u, step s = .next t ∧ step t = .next u ∧
      u.q = (0x0002#16 ||| (w &&& byVariant s.variant 0x0AD5#16 0x02D5#16)).setWidth 32 ∧
      (legalStatusWord s.variant w = true → u.q = w.setWidth 32)

/-! ## Whole-machine rules -/

/-- R37: issuing a command twice in a row with the same inputs leaves what issuing it once leaves, outputs and all. -/
def Obligations.CommandsAreIdempotent : Prop :=
  ∀ (i : Instr) (s t : State), exec i s = .next t → exec i t = .next t

/-- R48: data bits that a command does not read cannot change what it does. -/
def Obligations.UnlistedDataBitsAreIgnored : Prop :=
  ∀ (i : Instr) (s : State) (p : Ports), SameDataRead s.variant i s.ports p →
    ∃ t, exec i s = .next t ∧ exec i { s with ports := p } = .next { t with ports := p }

/-- R90, R51: a requester that presents only resets and legal words never sees `ill = 1`. -/
def Obligations.LegalRequesterNeverSeesIll : Prop :=
  ∀ s : State, s.RequesterLegal → ∃ t, step s = .next t ∧ t.ill = false ∧ t.RequesterLegal

/-- R114: an RDSW for the debugger, wherever it is put in the sequence, changes nothing that follows. -/
def Obligations.DebuggerReadDisturbsNothing : Prop :=
  ∀ (s : State) (p : Ports) (rest : List Ports) (k : Nat), p.rst = false → p.cmd = 0x000B#16 →
    run (k + 2) { s with pending := p :: rest } = run (k + 1) { s with pending := rest }

/-- R106: each boot sequence fixes the flags, whatever the draw. On PDP11 the WRSW of way (c) keeps OF (R85), so there
it fixes the RESULT group only (assumption log 9). -/
def Obligations.BootSequencesFixTheFlags : Prop :=
  ∀ (s : State) (szv : Size) (p r : Ports) (rest : List Ports), s.RomIntact →
    (exec (.wrres 0b1111#4 szv) { s with ports := p } = .next { s with
      rzc := p.d0, rps := p.d1, rao := p.d2, sz := szv, q := 0#32, ill := false, ports := p }) ∧
    (s.pending = p :: r :: rest → p.rst = false → r.rst = false → p.cmd = bySize szv 0x0081#16 0x0181#16 →
      (r.cmd = 0x000A#16 → ∃ t u, step s = .next t ∧ step t = .next u ∧ u.sz = szv ∧
        u.flags = { cf := r.d0.getLsbD 0, pf := r.d0.getLsbD 2, af := r.d0.getLsbD 4, zf := r.d0.getLsbD 6,
                    sf := r.d0.getLsbD 7, of := r.d0.getLsbD 11 }) ∧
      (r.cmd = 0x000C#16 → ∃ t u, step s = .next t ∧ step t = .next u ∧ u.sz = szv ∧
        u.flags = { cf := r.d0.getLsbD 0, pf := r.d0.getLsbD 2, af := r.d0.getLsbD 4, zf := r.d0.getLsbD 6,
                    sf := r.d0.getLsbD 7, of := byVariant s.variant (r.d0.getLsbD 11) t.flags.of }))

/-! ## The assembler -/

/-- R55: the pseudo-instructions and the words of their expansions. -/
def Obligations.PseudoInstructionExpansions : Prop :=
  ∀ (v w : Asm.Value), v.wf = true → w.wf = true →
    Asm.assemble (.wrzc v) = some { rst := false, cmd := 0x0011#16, d0 := v.toWord, d1 := 0#32, d2 := 0#32 } ∧
    Asm.assemble (.wrps v) = some { rst := false, cmd := 0x0021#16, d0 := 0#32, d1 := v.toWord, d2 := 0#32 } ∧
    Asm.assemble (.wrao v) = some { rst := false, cmd := 0x0041#16, d0 := 0#32, d1 := 0#32, d2 := v.toWord } ∧
    Asm.assemble .setb = some { rst := false, cmd := 0x0081#16, d0 := 0#32, d1 := 0#32, d2 := 0#32 } ∧
    Asm.assemble .setw = some { rst := false, cmd := 0x0181#16, d0 := 0#32, d1 := 0#32, d2 := 0#32 } ∧
    ∀ size : Size, Asm.assemble (.ldres v w size) = some
      { rst := false, cmd := bySize size 0x00F1#16 0x01F1#16, d0 := v.toWord, d1 := v.toWord, d2 := w.toWord }

/-- R54: the word and the data of each row but WRRES, and that every well-formed statement drives a legal word in a step
that is no reset step. -/
def Obligations.AssembledStatementsAreLegal : Prop :=
  Asm.assemble .nop = some { rst := false, cmd := 0x0000#16, d0 := 0#32, d1 := 0#32, d2 := 0#32 } ∧
  Asm.assemble .rdfl = some { rst := false, cmd := 0x0002#16, d0 := 0#32, d1 := 0#32, d2 := 0#32 } ∧
  Asm.assemble .rdcf = some { rst := false, cmd := 0x0003#16, d0 := 0#32, d1 := 0#32, d2 := 0#32 } ∧
  Asm.assemble .rdpf = some { rst := false, cmd := 0x0004#16, d0 := 0#32, d1 := 0#32, d2 := 0#32 } ∧
  Asm.assemble .rdaf = some { rst := false, cmd := 0x0005#16, d0 := 0#32, d1 := 0#32, d2 := 0#32 } ∧
  Asm.assemble .rdzf = some { rst := false, cmd := 0x0006#16, d0 := 0#32, d1 := 0#32, d2 := 0#32 } ∧
  Asm.assemble .rdsf = some { rst := false, cmd := 0x0007#16, d0 := 0#32, d1 := 0#32, d2 := 0#32 } ∧
  Asm.assemble .rdof = some { rst := false, cmd := 0x0008#16, d0 := 0#32, d1 := 0#32, d2 := 0#32 } ∧
  (∀ v : Asm.Value, v.wf = true →
    Asm.assemble (.par v) = some { rst := false, cmd := 0x0009#16, d0 := v.toWord, d1 := 0#32, d2 := 0#32 } ∧
    Asm.assemble (.ldfl v) = some { rst := false, cmd := 0x000A#16, d0 := v.toWord, d1 := 0#32, d2 := 0#32 } ∧
    Asm.assemble (.rdsw v) = some { rst := false, cmd := 0x000B#16, d0 := v.toWord, d1 := 0#32, d2 := 0#32 } ∧
    Asm.assemble (.wrsw v) = some { rst := false, cmd := 0x000C#16, d0 := v.toWord, d1 := 0#32, d2 := 0#32 }) ∧
  ∀ st : Asm.Stmt, st.wf = true → ∃ p, Asm.assemble st = some p ∧ p.rst = false ∧ LegalWord p.cmd

/-- R54: what a number stands for: itself where it is not negative, its 32-bit two's-complement pattern where it is. The
lowest negative number taken is the model's choice (assumption log 15). -/
def Obligations.NumbersStandForTheirValue : Prop :=
  (∀ n : Nat, n < 2 ^ 32 → (Asm.Value.hex n).wf = true ∧ (Asm.Value.hex n).toWord.toNat = n) ∧
  (∀ n : Nat, n < 2 ^ 32 → (Asm.Value.dec n).wf = true ∧ (Asm.Value.dec n).toWord.toNat = n) ∧
  (∀ z : Int, -2 ^ 31 ≤ z → z < 0 → (Asm.Value.dec z).wf = true ∧ (Asm.Value.dec z).toWord.toInt = z ∧
    ((Asm.Value.dec z).toWord.toNat : Int) = 2 ^ 32 + z) ∧
  ∀ n : Nat, 2 ^ 32 ≤ n → (Asm.Value.hex n).wf = false ∧ (Asm.Value.dec n).wf = false

/-- The model's choice (assumption log 15), no rule of the spec: a statement that breaks a limit of R54, and one with a
decimal below -2^31, drives nothing. -/
def Obligations.IllFormedStatementsDriveNothing : Prop :=
  (∀ st : Asm.Stmt, st.wf = false → Asm.assemble st = none) ∧
  (∀ z : Int, z < -2 ^ 31 → (Asm.Value.dec z).wf = false) ∧
  (∀ v : Asm.Value, v.wf = false → ∀ st ∈ [Asm.Stmt.par v, .ldfl v, .rdsw v, .wrsw v, .wrzc v, .wrps v, .wrao v,
      .wrres [.zc v], .wrres [.ps v], .wrres [.ao v], .ldres v (.hex 0) .byte, .ldres (.hex 0) v .word],
    Asm.assemble st = none) ∧
  ∀ (a b c : List Asm.WrresOperand) (o o' : Asm.WrresOperand), o.name = o'.name →
    Asm.assemble (.wrres (a ++ o :: b ++ o' :: c)) = none

/-- R54: the operands of a WRRES statement may stand in any order. -/
def Obligations.WrresOperandsInAnyOrder : Prop :=
  ∀ os os' : List Asm.WrresOperand, os.Perm os' → Asm.Stmt.wf (.wrres os) = true →
    Asm.assemble (.wrres os) = Asm.assemble (.wrres os')

/-- R54: each named operand of a WRRES statement sets its enable and its value; inputs not named are driven 0. -/
def Obligations.WrresOperandsSetEnablesAndValues : Prop :=
  ∀ os : List Asm.WrresOperand, Asm.Stmt.wf (.wrres os) = true →
    ∃ (we : BitVec 4) (szv : Size) (p : Ports), Asm.assemble (.wrres os) = some p ∧ decode p.cmd = .ok (.wrres we szv) ∧
      (∀ v, .zc v ∈ os → we.getLsbD 0 = true ∧ p.d0 = v.toWord) ∧
      (∀ v, .ps v ∈ os → we.getLsbD 1 = true ∧ p.d1 = v.toWord) ∧
      (∀ v, .ao v ∈ os → we.getLsbD 2 = true ∧ p.d2 = v.toWord) ∧
      (∀ z, .sz z ∈ os → we.getLsbD 3 = true ∧ szv = z) ∧
      ((∀ v, .zc v ∉ os) → we.getLsbD 0 = false ∧ p.d0 = 0#32) ∧
      ((∀ v, .ps v ∉ os) → we.getLsbD 1 = false ∧ p.d1 = 0#32) ∧
      ((∀ v, .ao v ∉ os) → we.getLsbD 2 = false ∧ p.d2 = 0#32) ∧
      ((∀ z, .sz z ∉ os) → we.getLsbD 3 = false)
end

