-- ==== Sys2Proof/Laws/Assembler.lean ====
section
/-! SUPPORT. Laws/Assembler.lean: what the assembler's operations can do, said once. -/

namespace Sys2Proof.Asm

/-- A well-formed statement drives its ports. -/
theorem assemble_of_wf {st : Stmt} (h : st.wf = true) : assemble st = some st.driven.ports := by
  rw [assemble, h]
  rfl

/-- An ill-formed statement drives nothing (assumption log 15). -/
theorem assemble_of_not_wf {st : Stmt} (h : st.wf = false) : assemble st = none := by
  rw [assemble, h]
  rfl

@[simp] theorem Driven.ports_rst (d : Driven) : d.ports.rst = false := rfl
@[simp] theorem Driven.ports_cmd (d : Driven) : d.ports.cmd = encode d.instr := rfl
@[simp] theorem Driven.ports_d0 (d : Driven) : d.ports.d0 = d.d0 := rfl
@[simp] theorem Driven.ports_d1 (d : Driven) : d.ports.d1 = d.d1 := rfl
@[simp] theorem Driven.ports_d2 (d : Driven) : d.ports.d2 = d.d2 := rfl

/-- Operands of different names can be gathered in either order. -/
theorem WrresFields.add_comm (f : WrresFields) {a b : WrresOperand} (h : a.name ≠ b.name) :
    (f.add a).add b = (f.add b).add a := by
  cases a <;> cases b <;>
    first | exact absurd rfl h | (simp only [WrresFields.add, WrresFields.mk.injEq, and_true]; ac_rfl)

/-- No operand is named twice where the first is not named again and no other is named twice. -/
theorem operandsDistinct_cons (o : WrresOperand) (os : List WrresOperand) :
    operandsDistinct (o :: os) = true ↔ o.name ∉ os.map WrresOperand.name ∧ operandsDistinct os = true := by
  simp [operandsDistinct]

/-- No operand is named twice exactly when the names have no repeat, whatever their order. -/
theorem operandsDistinct_iff_nodup (os : List WrresOperand) :
    operandsDistinct os = true ↔ (os.map WrresOperand.name).Nodup := by
  induction os with
  | nil => simp [operandsDistinct]
  | cons o os ih => rw [operandsDistinct_cons, ih, List.map_cons, List.nodup_cons]

end Sys2Proof.Asm
end

