-- ==== Sys2Proof/Laws/Flags.lean ====
section
/-! SUPPORT. Laws/Flags.lean: the masks and formulas of Machine/Flags.lean bit by bit. -/

namespace Sys2Proof.Machine

@[simp] theorem sizeMask_byte : sizeMask .byte = 0x100#32 := rfl
@[simp] theorem sizeMask_word : sizeMask .word = 0x10000#32 := rfl
@[simp] theorem lowMask_byte : lowMask .byte = 0xFF#32 := rfl
@[simp] theorem lowMask_word : lowMask .word = 0xFFFF#32 := rfl
@[simp] theorem signMask_byte : signMask .byte = 0x80#32 := rfl
@[simp] theorem signMask_word : signMask .word = 0x8000#32 := rfl
@[simp] theorem directMask_i8080 : directMask .i8080 = 0x0A00#32 := rfl
@[simp] theorem directMask_pdp11 : directMask .pdp11 = 0x0200#32 := rfl
@[simp] theorem legalMask_i8080 : legalMask .i8080 = 0x0AD7#32 := rfl
@[simp] theorem legalMask_pdp11 : legalMask .pdp11 = 0x02D7#32 := rfl

theorem zext32_eq_ite (b : Bool) : zext32 b = if b then 1#32 else 0#32 := by
  cases b <;> rfl

@[simp] theorem getLsbD_zext32 (b : Bool) (k : Nat) : (zext32 b).getLsbD k = (decide (k = 0) && b) := by
  cases b
  · simp [zext32]
  · cases k <;> simp [zext32]

@[simp] theorem getElem_zext32 (b : Bool) (k : Nat) (hk : k < 32) : (zext32 b)[k] = (decide (k = 0) && b) := by
  rw [← BitVec.getLsbD_eq_getElem, getLsbD_zext32]

@[simp] theorem isZero_iff (v : Word) : isZero v = true ↔ v = 0#32 := by simp [isZero]

/-- `nz(v & mask)` of a one-bit mask is that bit. -/
theorem nz_and_twoPow (v : Word) (k : Nat) (hk : k < 32) : nz (v &&& BitVec.twoPow 32 k) = v.getLsbD k := by
  rw [BitVec.and_twoPow]
  cases h : v.getLsbD k
  · simp [nz]
  · have hne : BitVec.twoPow 32 k ≠ 0#32 := by
      intro h0
      have := congrArg (fun x => BitVec.getLsbD x k) h0
      simp [hk] at this
    simpa [nz] using hne

/-- `z(v & (2^k - 1))` says that the low k bits are 0. -/
theorem and_low_eq_zero (v : Word) (k : Nat) (hk : k < 32) :
    v &&& BitVec.ofNat 32 (2 ^ k - 1) = 0#32 ↔ v.toNat % 2 ^ k = 0 := by
  have hlt : 2 ^ k - 1 < 2 ^ 32 := lt_of_lt_of_le (Nat.sub_lt (Nat.two_pow_pos k) one_pos)
    (Nat.pow_le_pow_right (by decide) (Nat.le_of_lt hk))
  rw [← BitVec.toNat_inj, BitVec.toNat_and, BitVec.toNat_ofNat, Nat.mod_eq_of_lt hlt, Nat.and_two_pow_sub_one_eq_mod]
  simp

theorem carryFlag_byte (rzc : Word) : carryFlag rzc .byte = rzc.getLsbD 8 := nz_and_twoPow rzc 8 (by decide)
theorem carryFlag_word (rzc : Word) : carryFlag rzc .word = rzc.getLsbD 16 := nz_and_twoPow rzc 16 (by decide)
theorem signFlag_byte (rps : Word) : signFlag rps .byte = rps.getLsbD 7 := nz_and_twoPow rps 7 (by decide)
theorem signFlag_word (rps : Word) : signFlag rps .word = rps.getLsbD 15 := nz_and_twoPow rps 15 (by decide)

theorem auxFlag_eq (rps rao : Word) : auxFlag rps rao = (rps.getLsbD 4 ^^ rao.getLsbD 4) :=
  (nz_and_twoPow (rps ^^^ rao) 4 (by decide)).trans BitVec.getLsbD_xor

theorem overflowFlag_byte (rps rao : Word) :
    overflowFlag rps rao .byte = (rps.getLsbD 7 ^^ rao.getLsbD 7 ^^ rps.getLsbD 8) := by
  refine (nz_and_twoPow (rps ^^^ rao ^^^ (rps >>> 1)) 7 (by decide)).trans ?_
  rw [BitVec.getLsbD_xor, BitVec.getLsbD_xor, BitVec.getLsbD_ushiftRight]

theorem overflowFlag_word (rps rao : Word) :
    overflowFlag rps rao .word = (rps.getLsbD 15 ^^ rao.getLsbD 15 ^^ rps.getLsbD 16) := by
  refine (nz_and_twoPow (rps ^^^ rao ^^^ (rps >>> 1)) 15 (by decide)).trans ?_
  rw [BitVec.getLsbD_xor, BitVec.getLsbD_xor, BitVec.getLsbD_ushiftRight]

theorem zeroFlag_byte (rzc : Word) : zeroFlag rzc .byte = true ↔ rzc.toNat % 2 ^ 8 = 0 := by
  rw [zeroFlag, isZero_iff]
  exact and_low_eq_zero rzc 8 (by decide)

theorem zeroFlag_word (rzc : Word) : zeroFlag rzc .word = true ↔ rzc.toNat % 2 ^ 16 = 0 := by
  rw [zeroFlag, isZero_iff]
  exact and_low_eq_zero rzc 16 (by decide)

/-- PF reads the low byte (R68). -/
theorem parityFlag_eq (table : ParityTable) (rps : Word) :
    parityFlag table rps = table.getLsbD (rps.toNat % 256) := by
  simp [parityFlag, ParityTable.entry]

/-- The bits of the packed flag word: each flag at its place, 0 elsewhere (R73). -/
theorem getLsbD_packed (f : Flags) (k : Nat) (hk : k < 32) :
    f.packed.getLsbD k =
      ((decide (k = 0) && f.cf) || (decide (k = 2) && f.pf) || (decide (k = 4) && f.af) || (decide (k = 6) && f.zf) ||
        (decide (k = 7) && f.sf) || (decide (k = 11) && f.of)) := by
  obtain ⟨cf, pf, af, zf, sf, of⟩ := f
  revert k
  cases cf <;> cases pf <;> cases af <;> cases zf <;> cases sf <;> cases of <;> decide

/-- Flags at the LDFL layout of a packed word are those packed. -/
theorem packedFlags_packed (f : Flags) : packedFlags f.packed = f := by
  have h := fun k hk => getLsbD_packed f k hk
  cases f
  simp only [packedFlags, Flags.mk.injEq]
  refine ⟨?_, ?_, ?_, ?_, ?_, ?_⟩ <;> exact (h _ (by decide)).trans (by simp)

end Sys2Proof.Machine
end

