-- ==== Sys2Proof/Laws/State.lean ====
section
/-! SUPPORT. Laws/State.lean: for every update of the state, what each field is afterwards. -/

namespace Sys2Proof.Machine

variable (s : State)

/-! ### `State.output` -/

@[simp] theorem State.output_rzc (q : Word) (ill : Bool) : (s.output q ill).rzc = s.rzc := rfl
@[simp] theorem State.output_rps (q : Word) (ill : Bool) : (s.output q ill).rps = s.rps := rfl
@[simp] theorem State.output_rao (q : Word) (ill : Bool) : (s.output q ill).rao = s.rao := rfl
@[simp] theorem State.output_sz (q : Word) (ill : Bool) : (s.output q ill).sz = s.sz := rfl
@[simp] theorem State.output_parity (q : Word) (ill : Bool) : (s.output q ill).parity = s.parity := rfl
@[simp] theorem State.output_q (q : Word) (ill : Bool) : (s.output q ill).q = q := rfl
@[simp] theorem State.output_ill (q : Word) (ill : Bool) : (s.output q ill).ill = ill := rfl
@[simp] theorem State.output_ports (q : Word) (ill : Bool) : (s.output q ill).ports = s.ports := rfl
@[simp] theorem State.output_variant (q : Word) (ill : Bool) : (s.output q ill).variant = s.variant := rfl
@[simp] theorem State.output_pending (q : Word) (ill : Bool) : (s.output q ill).pending = s.pending := rfl
@[simp] theorem State.output_resets (q : Word) (ill : Bool) : (s.output q ill).resets = s.resets := rfl

/-! ### `State.reserved` -/

@[simp] theorem State.reserved_rzc : s.reserved.rzc = s.rzc := rfl
@[simp] theorem State.reserved_rps : s.reserved.rps = s.rps := rfl
@[simp] theorem State.reserved_rao : s.reserved.rao = s.rao := rfl
@[simp] theorem State.reserved_sz : s.reserved.sz = s.sz := rfl
@[simp] theorem State.reserved_parity : s.reserved.parity = s.parity := rfl
@[simp] theorem State.reserved_q : s.reserved.q = 0#32 := rfl
@[simp] theorem State.reserved_ill : s.reserved.ill = true := rfl
@[simp] theorem State.reserved_ports : s.reserved.ports = s.ports := rfl
@[simp] theorem State.reserved_variant : s.reserved.variant = s.variant := rfl
@[simp] theorem State.reserved_pending : s.reserved.pending = s.pending := rfl
@[simp] theorem State.reserved_resets : s.reserved.resets = s.resets := rfl

/-! ### `State.writeResults` -/

@[simp] theorem State.writeResults_rzc (we : BitVec 4) (szv : Size) :
    (s.writeResults we szv).rzc = (if we.getLsbD 0 then s.ports.d0 else s.rzc) := rfl
@[simp] theorem State.writeResults_rps (we : BitVec 4) (szv : Size) :
    (s.writeResults we szv).rps = (if we.getLsbD 1 then s.ports.d1 else s.rps) := rfl
@[simp] theorem State.writeResults_rao (we : BitVec 4) (szv : Size) :
    (s.writeResults we szv).rao = (if we.getLsbD 2 then s.ports.d2 else s.rao) := rfl
@[simp] theorem State.writeResults_sz (we : BitVec 4) (szv : Size) :
    (s.writeResults we szv).sz = (if we.getLsbD 3 then szv else s.sz) := rfl
@[simp] theorem State.writeResults_parity (we : BitVec 4) (szv : Size) :
    (s.writeResults we szv).parity = s.parity := rfl
@[simp] theorem State.writeResults_q (we : BitVec 4) (szv : Size) : (s.writeResults we szv).q = s.q := rfl
@[simp] theorem State.writeResults_ill (we : BitVec 4) (szv : Size) : (s.writeResults we szv).ill = s.ill := rfl
@[simp] theorem State.writeResults_ports (we : BitVec 4) (szv : Size) : (s.writeResults we szv).ports = s.ports := rfl
@[simp] theorem State.writeResults_variant (we : BitVec 4) (szv : Size) :
    (s.writeResults we szv).variant = s.variant := rfl
@[simp] theorem State.writeResults_pending (we : BitVec 4) (szv : Size) :
    (s.writeResults we szv).pending = s.pending := rfl
@[simp] theorem State.writeResults_resets (we : BitVec 4) (szv : Size) :
    (s.writeResults we szv).resets = s.resets := rfl

/-! ### `State.seedFlags` -/

@[simp] theorem State.seedFlags_rzc (f : Flags) : (s.seedFlags f).rzc = (seed s.parity f s.sz).rzc := rfl
@[simp] theorem State.seedFlags_rps (f : Flags) : (s.seedFlags f).rps = (seed s.parity f s.sz).rps := rfl
@[simp] theorem State.seedFlags_rao (f : Flags) : (s.seedFlags f).rao = (seed s.parity f s.sz).rao := rfl
@[simp] theorem State.seedFlags_sz (f : Flags) : (s.seedFlags f).sz = s.sz := rfl
@[simp] theorem State.seedFlags_parity (f : Flags) : (s.seedFlags f).parity = s.parity := rfl
@[simp] theorem State.seedFlags_q (f : Flags) : (s.seedFlags f).q = s.q := rfl
@[simp] theorem State.seedFlags_ill (f : Flags) : (s.seedFlags f).ill = s.ill := rfl
@[simp] theorem State.seedFlags_ports (f : Flags) : (s.seedFlags f).ports = s.ports := rfl
@[simp] theorem State.seedFlags_variant (f : Flags) : (s.seedFlags f).variant = s.variant := rfl
@[simp] theorem State.seedFlags_pending (f : Flags) : (s.seedFlags f).pending = s.pending := rfl
@[simp] theorem State.seedFlags_resets (f : Flags) : (s.seedFlags f).resets = s.resets := rfl

/-! ### `State.resetStep` -/

@[simp] theorem State.resetStep_rzc : s.resetStep.rzc = Config.resetRzc s.resets := rfl
@[simp] theorem State.resetStep_rps : s.resetStep.rps = Config.resetRps s.resets := rfl
@[simp] theorem State.resetStep_rao : s.resetStep.rao = Config.resetRao s.resets := rfl
@[simp] theorem State.resetStep_sz : s.resetStep.sz = Config.resetSz s.resets := rfl
@[simp] theorem State.resetStep_parity : s.resetStep.parity = s.parity := rfl
@[simp] theorem State.resetStep_q : s.resetStep.q = 0#32 := rfl
@[simp] theorem State.resetStep_ill : s.resetStep.ill = false := rfl
@[simp] theorem State.resetStep_ports : s.resetStep.ports = s.ports := rfl
@[simp] theorem State.resetStep_variant : s.resetStep.variant = s.variant := rfl
@[simp] theorem State.resetStep_pending : s.resetStep.pending = s.pending := rfl
@[simp] theorem State.resetStep_resets : s.resetStep.resets = s.resets + 1 := rfl

/-! ### `State.present` -/

@[simp] theorem State.present_rzc : s.present.rzc = s.rzc := rfl
@[simp] theorem State.present_rps : s.present.rps = s.rps := rfl
@[simp] theorem State.present_rao : s.present.rao = s.rao := rfl
@[simp] theorem State.present_sz : s.present.sz = s.sz := rfl
@[simp] theorem State.present_parity : s.present.parity = s.parity := rfl
@[simp] theorem State.present_q : s.present.q = s.q := rfl
@[simp] theorem State.present_ill : s.present.ill = s.ill := rfl
@[simp] theorem State.present_ports : s.present.ports = s.nextPorts := rfl
@[simp] theorem State.present_variant : s.present.variant = s.variant := rfl
@[simp] theorem State.present_pending : s.present.pending = s.pending.tail := rfl
@[simp] theorem State.present_resets : s.present.resets = s.resets := rfl

/-! ### `State.replaceCommand` -/

@[simp] theorem State.replaceCommand_rzc (cmd : Cmd) : (s.replaceCommand cmd).rzc = s.rzc := rfl
@[simp] theorem State.replaceCommand_rps (cmd : Cmd) : (s.replaceCommand cmd).rps = s.rps := rfl
@[simp] theorem State.replaceCommand_rao (cmd : Cmd) : (s.replaceCommand cmd).rao = s.rao := rfl
@[simp] theorem State.replaceCommand_sz (cmd : Cmd) : (s.replaceCommand cmd).sz = s.sz := rfl
@[simp] theorem State.replaceCommand_parity (cmd : Cmd) : (s.replaceCommand cmd).parity = s.parity := rfl
@[simp] theorem State.replaceCommand_q (cmd : Cmd) : (s.replaceCommand cmd).q = s.q := rfl
@[simp] theorem State.replaceCommand_ill (cmd : Cmd) : (s.replaceCommand cmd).ill = s.ill := rfl
@[simp] theorem State.replaceCommand_ports (cmd : Cmd) : (s.replaceCommand cmd).ports = s.ports := rfl
@[simp] theorem State.replaceCommand_variant (cmd : Cmd) : (s.replaceCommand cmd).variant = s.variant := rfl
@[simp] theorem State.replaceCommand_pending (cmd : Cmd) :
    (s.replaceCommand cmd).pending = { s.nextPorts with rst := false, cmd := cmd } :: s.pending.tail := rfl
@[simp] theorem State.replaceCommand_resets (cmd : Cmd) : (s.replaceCommand cmd).resets = s.resets := rfl

/-! ### Reading the requester's next inputs -/

theorem State.nextPorts_nil (h : s.pending = []) : s.nextPorts = Ports.idle := by
  simp [State.nextPorts, h]

theorem State.nextPorts_cons (p : Ports) (rest : List Ports) (h : s.pending = p :: rest) : s.nextPorts = p := by
  simp [State.nextPorts, h]

theorem State.present_nil (h : s.pending = []) : s.present = { s with ports := Ports.idle } := by
  cases s
  simp_all [State.present, State.nextPorts]

theorem State.present_cons (p : Ports) (rest : List Ports) (h : s.pending = p :: rest) :
    s.present = { s with ports := p, pending := rest } := by
  simp [State.present, State.nextPorts, h]

theorem State.replaceCommand_nextPorts (cmd : Cmd) :
    (s.replaceCommand cmd).nextPorts = { s.nextPorts with rst := false, cmd := cmd } := rfl

end Sys2Proof.Machine
end

