-- ==== Sys2Proof/Laws/Ops.lean ====
section
/-! SUPPORT. Laws/Ops.lean: once for each shared operation, everything it can do. -/

namespace Sys2Proof.Machine

/-- `complete` always goes on, and drives the outputs alone. -/
theorem complete_eq_next (q : Word) (s t : State) : complete q s = .next t ↔ t = s.output q false := by
  simp [complete, eq_comm]

/-- Driving the outputs twice is driving them the second time. -/
theorem State.output_output (s : State) (q q' : Word) (ill ill' : Bool) :
    (s.output q ill).output q' ill' = s.output q' ill' := rfl

/-- A write with no enable writes nothing (R64). -/
theorem State.writeResults_none (s : State) (szv : Size) : s.writeResults 0#4 szv = s := by
  cases s
  simp [State.writeResults]

/-- The flags do not read the outputs. -/
@[simp] theorem State.flags_output (s : State) (q : Word) (ill : Bool) : (s.output q ill).flags = s.flags := rfl

/-- The flags do not read the input ports. -/
@[simp] theorem State.flags_present (s : State) : s.present.flags = s.flags := rfl

/-- Every command that goes on leaves the fields no command writes, and `ill` at 0 (R50). -/
theorem exec_next_keeps (i : Instr) (s t : State) (h : exec i s = .next t) :
    t.parity = s.parity ∧ t.variant = s.variant ∧ t.ports = s.ports ∧ t.pending = s.pending ∧ t.resets = s.resets ∧
      t.ill = false := by
  cases i <;> exact (complete_eq_next _ _ _).1 h ▸ ⟨rfl, rfl, rfl, rfl, rfl, rfl⟩

end Sys2Proof.Machine
end

