-- ==== Sys2Proof/Laws/PerInstr.lean ====
section
/-! SUPPORT. Laws/PerInstr.lean: statements about every command as syntax, one lemma per constructor. -/

namespace Sys2Proof.Laws.TableRow

/-- The command's word is selected by a row of the opcode table that bears its mnemonic (30_encoding.md R57). -/
def Statement (i : Instr) : Prop :=
  (opcodeTable.any fun r => r.mnemonic == i.mnemonic && r.selects (encode i)) = true

theorem nop : Statement .nop := by unfold Statement; decide
theorem rdfl : Statement .rdfl := by unfold Statement; decide
theorem rdcf : Statement .rdcf := by unfold Statement; decide
theorem rdpf : Statement .rdpf := by unfold Statement; decide
theorem rdaf : Statement .rdaf := by unfold Statement; decide
theorem rdzf : Statement .rdzf := by unfold Statement; decide
theorem rdsf : Statement .rdsf := by unfold Statement; decide
theorem rdof : Statement .rdof := by unfold Statement; decide
theorem par : Statement .par := by unfold Statement; decide
theorem ldfl : Statement .ldfl := by unfold Statement; decide
theorem rdsw : Statement .rdsw := by unfold Statement; decide
theorem wrsw : Statement .wrsw := by unfold Statement; decide

theorem wrres (we : BitVec 4) (szv : Size) : Statement (.wrres we szv) := by
  revert we
  unfold Statement
  cases szv <;> decide

end Sys2Proof.Laws.TableRow
end

