-- ==== Sys2Proof/Laws/Step.lean ====
section
/-! SUPPORT. Laws/Step.lean: what a step can do, once. -/

namespace Sys2Proof.Machine

theorem step_reset (s : State) (h : s.nextPorts.rst = true) : step s = .next s.present.resetStep := by
  simp [step, h]

theorem step_command (s : State) (i : Instr) (h : s.nextPorts.rst = false) (hd : decode s.nextPorts.cmd = .ok i) :
    step s = exec i s.present := by
  simp [step, h, hd]

theorem step_reserved (s : State) (r : Reserved) (h : s.nextPorts.rst = false)
    (hd : decode s.nextPorts.cmd = .error r) : step s = .next s.present.reserved := by
  simp [step, h, hd]

/-- A step that goes on is a reset step, a command's or a reserved word's. -/
theorem step_cases (s t : State) (h : step s = .next t) :
    (s.nextPorts.rst = true ∧ t = s.present.resetStep) ∨
    (s.nextPorts.rst = false ∧ ∃ i, decode s.nextPorts.cmd = .ok i ∧ exec i s.present = .next t) ∨
    (s.nextPorts.rst = false ∧ ∃ r, decode s.nextPorts.cmd = .error r ∧ t = s.present.reserved) := by
  cases hr : s.nextPorts.rst with
  | true =>
    rw [step_reset s hr] at h
    exact .inl ⟨rfl, by injection h with h; exact h.symm⟩
  | false =>
    cases hd : decode s.nextPorts.cmd with
    | ok i => exact .inr (.inl ⟨rfl, i, rfl, step_command s i hr hd ▸ h⟩)
    | error r =>
      rw [step_reserved s r hr hd] at h
      exact .inr (.inr ⟨rfl, r, rfl, by injection h with h; exact h.symm⟩)

/-- `withFetchWord` makes the next step run the row's command, on the data the requester presents. -/
theorem step_withFetchWord (s : State) (nbits w : Nat) (i : Instr) (h : decodeTableWord nbits w = some i) :
    step (s.withFetchWord nbits w) = exec i (s.withFetchWord nbits w).present := by
  refine step_command _ i rfl ?_
  have hc : (s.withFetchWord nbits w).nextPorts.cmd = tableCommand nbits w := rfl
  rw [hc]
  unfold decodeTableWord at h
  cases hd : decode (tableCommand nbits w) with
  | ok j => simpa [hd, Except.toOption] using h
  | error r => simp [hd, Except.toOption] at h

theorem run_zero (s : State) : run 0 s = .next s := rfl

theorem run_succ (k : Nat) (s t : State) (h : step s = .next t) : run (k + 1) s = run k t := by
  simp [run, h]

/-- `run` is the host's run of the core. -/
theorem run_eq_core_run (k : Nat) (s : State) : run k s = Sys2Proof.core.run k s := by
  induction k generalizing s with
  | zero => rfl
  | succ k ih =>
    have hs : Sys2Proof.core.step s = step s := rfl
    cases h : step s with
    | next t =>
      simp only [Host.Core.run, hs, h]
      exact (run_succ k s t h).trans (ih t)
    | fault r => simp only [run, Host.Core.run, hs, h]; rfl
    | refused r => simp only [run, Host.Core.run, hs, h]; rfl

end Sys2Proof.Machine
end

