-- ==== Sys2Proof/Tests/Slice0.lean ====
section
/-! SUPPORT. Tests/Slice0.lean: tests against spec/95_test_vectors.md and words written out from 30_encoding.md, the
refusals of WellFormed.lean, and a witness for the hypotheses of every statement that has some. -/

namespace Sys2Proof.Tests

open Sys2Proof Sys2Proof.Machine

/-- A state of variant `v` with these register contents and data inputs. -/
def at' (v : Variant) (rzc rps rao : Word) (sz : Size) (d0 d1 d2 : Word) : State :=
  { State.resetOf v rzc rps rao sz with ports := { Ports.idle with d0 := d0, d1 := d1, d2 := d2 } }

/-- An I8080 state with these register contents and no data. -/
def regs (rzc rps rao : Word) (sz : Size) : State := at' .i8080 rzc rps rao sz 0 0 0

/-- The same with a command presented. -/
def presenting (cmd : Cmd) (d0 d1 d2 : Word) (s : State) : State :=
  { s with pending := [{ rst := false, cmd := cmd, d0 := d0, d1 := d1, d2 := d2 }] }

def nextOf : Result → Option State
  | .next s => some s
  | .fault _ => none
  | .refused _ => none

/-- The result output after a command. -/
def qOf (r : Result) : Option Word := (nextOf r).map State.q

/-- The registers after a command. -/
def regsOf (r : Result) : Option (Word × Word × Word × Size) :=
  (nextOf r).map fun s => (s.rzc, s.rps, s.rao, s.sz)

/-- The registers and the two outputs after a step. -/
def seenOf (r : Result) : Option (Word × Word × Word × Size × Word × Bool) :=
  (nextOf r).map fun s => (s.rzc, s.rps, s.rao, s.sz, s.q, s.ill)

/-! ## Decoding: words written out from R45 and R46 as `res szv we op` -/

theorem test_decode_nop : decode (0b0000000#7 ++ 0b0#1 ++ 0b0000#4 ++ 0b0000#4) = .ok .nop := by decide
theorem test_decode_wrres_example :
    decode (0b0000000#7 ++ 0b0#1 ++ 0b1111#4 ++ 0b0001#4) = .ok (.wrres 0b1111#4 .byte) := by decide
theorem test_decode_wrres_setw :
    decode (0b0000000#7 ++ 0b1#1 ++ 0b1000#4 ++ 0b0001#4) = .ok (.wrres 0b1000#4 .word) := by decide
theorem test_decode_rdfl : decode (0b0000000#7 ++ 0b0#1 ++ 0b0000#4 ++ 0b0010#4) = .ok .rdfl := by decide
theorem test_decode_rdcf : decode (0b0000000#7 ++ 0b0#1 ++ 0b0000#4 ++ 0b0011#4) = .ok .rdcf := by decide
theorem test_decode_rdpf : decode (0b0000000#7 ++ 0b0#1 ++ 0b0000#4 ++ 0b0100#4) = .ok .rdpf := by decide
theorem test_decode_rdaf : decode (0b0000000#7 ++ 0b0#1 ++ 0b0000#4 ++ 0b0101#4) = .ok .rdaf := by decide
theorem test_decode_rdzf : decode (0b0000000#7 ++ 0b0#1 ++ 0b0000#4 ++ 0b0110#4) = .ok .rdzf := by decide
theorem test_decode_rdsf : decode (0b0000000#7 ++ 0b0#1 ++ 0b0000#4 ++ 0b0111#4) = .ok .rdsf := by decide
theorem test_decode_rdof : decode (0b0000000#7 ++ 0b0#1 ++ 0b0000#4 ++ 0b1000#4) = .ok .rdof := by decide
theorem test_decode_par : decode (0b0000000#7 ++ 0b0#1 ++ 0b0000#4 ++ 0b1001#4) = .ok .par := by decide
theorem test_decode_ldfl : decode (0b0000000#7 ++ 0b0#1 ++ 0b0000#4 ++ 0b1010#4) = .ok .ldfl := by decide
theorem test_decode_rdsw : decode (0b0000000#7 ++ 0b0#1 ++ 0b0000#4 ++ 0b1011#4) = .ok .rdsw := by decide
theorem test_decode_wrsw : decode (0b0000000#7 ++ 0b0#1 ++ 0b0000#4 ++ 0b1100#4) = .ok .wrsw := by decide

/-- X1 to X3. -/
theorem test_reserved_ops :
    decode 0x000D#16 = .error .op ∧ decode 0x000E#16 = .error .op ∧ decode 0x000F#16 = .error .op := by decide

/-- X4, X5, X8. -/
theorem test_reserved_fields :
    decode 0x0012#16 = .error .fields ∧ decode 0x0102#16 = .error .fields ∧ decode 0x00FA#16 = .error .fields := by
  decide

/-- X6, X7. -/
theorem test_reserved_bits : decode 0x0200#16 = .error .res ∧ decode 0x8001#16 = .error .res := by decide

/-- The table's numbering of a row's bits. -/
theorem test_decodeTableWord :
    decodeTableWord 16 0x01F1 = some (.wrres 0b1111#4 .word) ∧ decodeTableWord 16 0x000C = some .wrsw ∧
      decodeTableWord 16 0x000D = none := by decide

/-! ## Well-formedness refuses -/

theorem test_wf_hex_too_wide : Asm.Stmt.wf (.par (.hex 0x100000000)) = false := by decide
theorem test_wf_decimal_too_wide : Asm.Stmt.wf (.ldfl (.dec 4294967296)) = false := by decide
theorem test_wf_decimal_too_low : Asm.Stmt.wf (.rdsw (.dec (-2147483649))) = false := by decide
theorem test_wf_operand_twice : Asm.Stmt.wf (.wrres [.zc (.hex 1), .sz .byte, .zc (.hex 1)]) = false := by decide
theorem test_wf_operand_value_too_wide : Asm.Stmt.wf (.wrres [.sz .word, .ao (.hex 0x100000000)]) = false := by decide
theorem test_wf_accepts :
    Asm.Stmt.wf (.wrres [.sz .word, .ao (.hex 0xFFFFFFFF), .zc (.dec (-2147483648))]) = true := by decide

/-! ## The assembler: the example of R54, P2 step 5 -/

theorem test_assemble_example :
    (Asm.parseStatement "WRRES zc=0x100 ps=0x100 ao=0xFE sz=B").bind Asm.assemble =
      some { rst := false, cmd := 0x00F1#16, d0 := 0x100#32, d1 := 0x100#32, d2 := 0xFE#32 } := by decide

theorem test_assemble_ldres :
    (Asm.parseStatement "LDRES 0xFFFFFFFF, 0x1, W").bind Asm.assemble =
      some { rst := false, cmd := 0x01F1#16, d0 := 0xFFFFFFFF#32, d1 := 0xFFFFFFFF#32, d2 := 0x1#32 } := by decide

theorem test_assemble_negative :
    (Asm.parseStatement "WRPS -1").bind Asm.assemble =
      some { rst := false, cmd := 0x0021#16, d0 := 0#32, d1 := 0xFFFFFFFF#32, d2 := 0#32 } := by decide

theorem test_assemble_refuses_unknown : Asm.parseStatement "RDRZC" = none := by decide

/-! ## The commands -/

/-- 2.2, `NOP`. -/
theorem test_nop : seenOf (exec .nop (regs 0x11111111 0x22222222 0x33333333 .byte)) =
    some (0x11111111, 0x22222222, 0x33333333, .byte, 0, false) := by decide

/-- 2.2, `WRRES zc=0xFFFFFFFF ps=0x0 sz=W`. -/
theorem test_wrres_some :
    regsOf (exec (.wrres 0b1011#4 .word) (at' .i8080 0x11111111 0x22222222 0x33333333 .byte 0xFFFFFFFF 0 0x44)) =
      some (0xFFFFFFFF, 0, 0x33333333, .word) := by decide

/-- 2.2, `WRRES (we=0, szv=1)`. -/
theorem test_wrres_none :
    regsOf (exec (.wrres 0b0000#4 .word) (at' .i8080 0x11111111 0x22222222 0x33333333 .byte 0xAAAA 0xBBBB 0xCCCC)) =
      some (0x11111111, 0x22222222, 0x33333333, .byte) := by decide

/-- F-A2 and F-A7. -/
theorem test_rdfl : qOf (exec .rdfl (regs 0x80 0x80 0x7E .byte)) = some 0x890 ∧
    qOf (exec .rdfl (regs 0x8000 0x8000 0x7FFE .word)) = some 0x894 := by decide

/-- F-B1 and F-B3: bit 8 is the carry at byte width only. -/
theorem test_rdcf : qOf (exec .rdcf (regs 0x100 0 0 .byte)) = some 1 ∧
    qOf (exec .rdcf (regs 0x100 0 0 .word)) = some 0 := by decide

/-- R67: bit 9 is no carry, and bit 16 is the word's. -/
theorem test_rdcf_only_its_bit : qOf (exec .rdcf (regs 0x200 0 0 .byte)) = some 0 ∧
    qOf (exec .rdcf (regs 0x10000 0 0 .word)) = some 1 := by decide

/-- F-B12 and F-L3. -/
theorem test_rdpf : qOf (exec .rdpf (regs 0 0x103 0 .byte)) = some 1 ∧
    qOf (exec .rdpf (regs 0x8001 0x8001 0x8001 .word)) = some 0 := by decide

/-- F-B10 and F-B11. -/
theorem test_rdaf : qOf (exec .rdaf (regs 0 0x10 0 .byte)) = some 1 ∧
    qOf (exec .rdaf (regs 0 0x10 0x10 .byte)) = some 0 := by decide

/-- S6 and S7. -/
theorem test_rdzf : qOf (exec .rdzf (regs 0x100 0 0 .byte)) = some 1 ∧
    qOf (exec .rdzf (regs 0x1FF 0 0 .byte)) = some 0 := by decide

/-- F-B6 and F-B7. -/
theorem test_rdsf : qOf (exec .rdsf (regs 0 0x80 0 .byte)) = some 1 ∧
    qOf (exec .rdsf (regs 0 0x80 0 .word)) = some 0 := by decide

/-- F-B8, F-B9 and F-B13. -/
theorem test_rdof : qOf (exec .rdof (regs 0 0x180 0 .byte)) = some 0 ∧
    qOf (exec .rdof (regs 0 0 0x80 .byte)) = some 1 ∧
    qOf (exec .rdof (regs 0 0xFFFFFFFF 0xFFFFFFFF .word)) = some 1 := by decide

/-- 2.1: S1 to S4. -/
theorem test_par : qOf (exec .par (at' .pdp11 0 0 0 .byte 0x00 0 0)) = some 1 ∧
    qOf (exec .par (at' .pdp11 0 0 0 .byte 0x01 0 0)) = some 0 ∧
    qOf (exec .par (at' .pdp11 0 0 0 .byte 0x03 0 0)) = some 1 ∧
    qOf (exec .par (at' .pdp11 0 0 0 .byte 0xFF 0 0)) = some 1 := by decide

/-- 2.1: only `d0[7:0]` counts. -/
theorem test_par_low_byte : qOf (exec .par (at' .pdp11 0 0 0 .byte 0x100 0 0)) = some 1 ∧
    qOf (exec .par (at' .pdp11 0 0 0 .byte 0x1FE 0 0)) = some 0 ∧
    qOf (exec .par (at' .pdp11 0 0 0 .byte 0xFFFFFF96 0 0)) = some 1 := by decide

/-- 2.4: `LDFL 0x0D5` at both widths. -/
theorem test_ldfl : regsOf (exec .ldfl (at' .i8080 0 0 0 .byte 0x0D5 0 0)) = some (0x100, 0x81, 0x90, .byte) ∧
    regsOf (exec .ldfl (at' .i8080 0 0 0 .word 0x0D5 0 0)) = some (0x10000, 0x8000, 0x8010, .word) := by decide

/-- 2.4: `LDFL 0x891` at word width, and that ignored bits have no effect. -/
theorem test_ldfl_ignores_bits :
    regsOf (exec .ldfl (at' .i8080 0 0 0 .word 0x891 0 0)) = some (0x10001, 0x8001, 0x10, .word) ∧
    regsOf (exec .ldfl (at' .i8080 0 0 0 .byte 0xFFFFFFFF 0 0)) =
      regsOf (exec .ldfl (at' .i8080 0 0 0 .byte 0x8D5 0 0)) := by decide

/-- W2 and W3. -/
theorem test_rdsw : qOf (exec .rdsw (at' .i8080 0x100 0x100 0xFE .byte 0xFFFF 0 0)) = some 0x0A57 ∧
    qOf (exec .rdsw (at' .pdp11 0x100 0x100 0xFE .byte 0xFFFF 0 0)) = some 0x0257 := by decide

/-- W4: the engine's OF does not enter the word. -/
theorem test_rdsw_without_engine_of :
    qOf (exec .rdsw (at' .i8080 0 0x80 0x7E .byte 0 0 0)) = some 0x00D2 := by decide

/-- W5 and W6. -/
theorem test_wrsw_i8080 :
    regsOf (exec .wrsw (at' .i8080 0 0 0 .byte 0x0A87 0 0)) = some (0x101, 0x81, 0, .byte) ∧
    regsOf (exec .wrsw (at' .i8080 0 0 0 .word 0x0A87 0 0)) = some (0x10001, 0x8000, 0, .word) := by decide

/-- W7 and W8: PDP11 keeps OF. -/
theorem test_wrsw_pdp11 :
    regsOf (exec .wrsw (at' .pdp11 0 0x80 0x7E .byte 0x0002 0 0)) = some (0x1, 0x1, 0x80, .byte) ∧
    regsOf (exec .wrsw (at' .pdp11 0 0 0 .byte 0x08D5 0 0)) = some (0x100, 0x81, 0x90, .byte) := by decide

/-! ## The step -/

/-- X1. -/
theorem test_step_reserved :
    seenOf (step (presenting 0x000D 0xFFFFFFFF 0xFFFFFFFF 0xFFFFFFFF (regs 0x100 0x100 0xFE .byte))) =
      some (0x100, 0x100, 0xFE, .byte, 0, true) := by decide

/-- P1 step 1. -/
theorem test_step_wrres :
    seenOf (step (presenting 0x00F1 0x100 0x100 0xFE (regs 0 0 0 .word))) =
      some (0x100, 0x100, 0xFE, .byte, 0, false) := by decide

/-- P1 step 2. -/
theorem test_step_rdfl :
    seenOf (step (presenting 0x0002 0 0 0 (regs 0x100 0x100 0xFE .byte))) =
      some (0x100, 0x100, 0xFE, .byte, 0x055, false) := by decide

/-- R1: reset wins over the command. -/
theorem test_step_reset :
    seenOf (step { regs 1 2 3 .byte with
      pending := [{ rst := true, cmd := 0x00F1, d0 := 0x100, d1 := 0x100, d2 := 0xFE }] }) =
      some (Config.resetRzc 1, Config.resetRps 1, Config.resetRao 1, Config.resetSz 1, 0, false) := rfl

/-- Every row's word runs as the first command after reset, and drives `ill = 0`. -/
theorem test_first_command_after_reset :
    opcodeTable.all (fun r => (nextOf (step (State.reset.withFetchWord 16 r.pattern.toNat))).map State.ill
      == some false) = true := by decide

/-! ## Witnesses: states and operands that meet the hypotheses of the statements, at the ends of their ranges -/

/-- What a state presents next is a command with these data. -/
theorem presenting_pending (cmd : Cmd) (d0 d1 d2 : Word) (s : State) :
    (presenting cmd d0 d1 d2 s).pending = { rst := false, cmd := cmd, d0 := d0, d1 := d1, d2 := d2 } :: [] := rfl

theorem witness_StepRunsTheDecodedCommand : ∃ (s : State) (p : Ports) (rest : List Ports) (i : Instr),
    s.pending = p :: rest ∧ p.rst = false ∧ i.wf = true ∧ decode p.cmd = .ok i :=
  ⟨presenting 0x01F1 1 2 3 (regs 0 0 0 .byte), _, _, .wrres 0b1111#4 .word, rfl, rfl, rfl, by decide⟩

theorem witness_IdleStepIsNop : (regs 1 2 3 .word).pending = [] := rfl

theorem witness_ReservedWordOnlySignals_op :
    ReservedShape 0x000D ∧ ReservedShape 0x000F ∧ ¬ReservedShape 0x000C := by unfold ReservedShape; decide

theorem witness_ReservedWordOnlySignals_res :
    ReservedShape 0x0200 ∧ ReservedShape 0x8001 ∧ ¬ReservedShape 0x01F1 := by unfold ReservedShape; decide

theorem witness_ReservedWordOnlySignals_fields :
    ReservedShape 0x0012 ∧ ReservedShape 0x0100 ∧ ¬ReservedShape 0x0001 := by unfold ReservedShape; decide

theorem witness_ReservedWordOnlySignals : ∃ (s : State) (p : Ports) (rest : List Ports),
    s.pending = p :: rest ∧ p.rst = false ∧ ReservedShape p.cmd :=
  ⟨presenting 0x000D 0 0 0 (regs 0 0 0 .byte), _, _, rfl, rfl, witness_ReservedWordOnlySignals_op.1⟩

theorem witness_IllegalOutputExactlyOnReservedWord :
    (nextOf (step (presenting 0x000D 0 0 0 (regs 0 0 0 .byte)))).map State.ill = some true ∧
    (nextOf (step (presenting 0x000C 0 0 0 (regs 0 0 0 .byte)))).map State.ill = some false := by decide

theorem witness_DecodeOfEncodeIsTheCommand : (Instr.wrres 0b1010#4 .word).wf = true := rfl

theorem witness_LegalWordIsItsCommandsEncoding :
    decode 0x0001#16 = .ok (.wrres 0b0000#4 .byte) ∧ decode 0x01F1#16 = .ok (.wrres 0b1111#4 .word) := by decide

theorem witness_OpcodeTableSelectsTheDecodedRow :
    decode 0x000C#16 = .ok .wrsw ∧ decode 0x000D#16 = .error .op := by decide

theorem witness_ResetStepLoadsTheDraw : ∃ (s : State) (p : Ports) (rest : List Ports),
    s.pending = p :: rest ∧ p.rst = true :=
  ⟨{ regs 0 0 0 .byte with pending := [{ Ports.idle with rst := true }] }, _, _, rfl, rfl⟩

theorem witness_EveryStepKeepsTheInvariant : ∃ s t : State, s.Inv ∧ step s = .next t ∧ t.q ≠ 0#32 :=
  ⟨presenting 0x0002 0 0 0 (regs 0x100 0x100 0xFE .byte), _, ⟨rfl, by decide, fun _ => rfl⟩, rfl, by decide⟩

theorem witness_NoStepWritesVariantOrParity : ∃ s t : State, step s = .next t :=
  ⟨{ regs 0 0 0 .byte with pending := [{ Ports.idle with rst := true }] }, _, rfl⟩

theorem witness_SizeWrittenOnlyByWrresAndReset : ∃ s t : State, step s = .next t ∧ t.sz ≠ s.sz :=
  ⟨presenting 0x0181 0 0 0 (regs 0 0 0 .byte), _, rfl, by decide⟩

theorem witness_RegistersAndFlagsChangeOnlyBy_wrres : ∃ s t : State, step s = .next t ∧ s.nextPorts.rst = false ∧
    t.rzc ≠ s.rzc ∧ t.rps ≠ s.rps ∧ t.rao ≠ s.rao ∧ t.flags ≠ s.flags :=
  ⟨presenting 0x0071 1 2 3 (regs 0 0 0 .byte), _, rfl, rfl, by decide, by decide, by decide, by decide⟩

theorem witness_RegistersAndFlagsChangeOnlyBy_ldfl : ∃ s t : State, step s = .next t ∧ s.nextPorts.rst = false ∧
    t.rzc ≠ s.rzc ∧ t.rps ≠ s.rps ∧ t.rao ≠ s.rao ∧ t.flags ≠ s.flags :=
  ⟨presenting 0x000A 0x10 0 0 (regs 0 0 0 .byte), _, rfl, rfl, by decide, by decide, by decide, by decide⟩

theorem witness_ParLooksUpParity :
    (at' .i8080 0 0xFFFFFF00 0 .byte 0x100 0 0).RomIntact ∧
    (at' .i8080 0 0xFFFFFF00 0 .byte 0x100 0 0).ports.d0.toNat % 256 =
      (at' .i8080 0 0xFFFFFF00 0 .byte 0x100 0 0).rps.toNat % 256 ∧
    (at' .i8080 0 0xFF 0 .byte 0x1FF 0 0).ports.d0.toNat % 256 =
      (at' .i8080 0 0xFF 0 .byte 0x1FF 0 0).rps.toNat % 256 := ⟨rfl, by decide, by decide⟩

theorem witness_WrresWritesTheEnabledRegisters_words :
    0x0001#16 &&& 0xFE0F#16 = 0x0001#16 ∧ 0x01F1#16 &&& 0xFE0F#16 = 0x0001#16 := by decide

theorem witness_WrresWritesTheEnabledRegisters_flags : ∃ (we : BitVec 4) (szv : Size) (s t : State),
    exec (.wrres we szv) s = .next t ∧ we.getLsbD 0 = false ∧ we.getLsbD 1 = false ∧ we.getLsbD 2 = false ∧
      we.getLsbD 3 = false ∧ we = 0#4 :=
  ⟨0#4, .word, regs 1 2 3 .byte, _, rfl, by decide, by decide, by decide, by decide, rfl⟩

theorem witness_AdditionShapeGivesAdditionFlags_byte : ∃ s : State, s.RomIntact ∧ 255 < 2 ^ bySize Size.byte 8 16 ∧
    s.ports.d0 = BitVec.ofNat 32 (255 + 255) ∧ s.ports.d1 = BitVec.ofNat 32 (255 + 255) ∧
    s.ports.d2 = BitVec.ofNat 32 255 ^^^ BitVec.ofNat 32 255 :=
  ⟨at' .i8080 0 0 0 .word 510 510 0, rfl, by decide, rfl, rfl, by decide⟩

theorem witness_AdditionShapeGivesAdditionFlags_word : ∃ s : State, s.RomIntact ∧ 65535 < 2 ^ bySize Size.word 8 16 ∧
    s.ports.d0 = BitVec.ofNat 32 (65535 + 0) ∧ s.ports.d1 = BitVec.ofNat 32 (65535 + 0) ∧
    s.ports.d2 = BitVec.ofNat 32 65535 ^^^ BitVec.ofNat 32 0 :=
  ⟨at' .i8080 0 0 0 .word 65535 65535 65535, rfl, by decide, rfl, rfl, by decide⟩

theorem witness_SubtractionShapeGivesSubtractionFlags_byte : ∃ s : State, s.RomIntact ∧
    255 < 2 ^ bySize Size.byte 8 16 ∧ s.ports.d0 = BitVec.ofInt 32 (((0 : Nat) : Int) - (255 : Nat)) ∧
    s.ports.d1 = BitVec.ofInt 32 (((0 : Nat) : Int) - (255 : Nat)) ∧
    s.ports.d2 = BitVec.ofNat 32 0 ^^^ BitVec.ofNat 32 255 :=
  ⟨at' .i8080 0 0 0 .word 0xFFFFFF01 0xFFFFFF01 0xFF, rfl, by decide, by decide, by decide, by decide⟩

theorem witness_SubtractionShapeGivesSubtractionFlags_word : ∃ s : State, s.RomIntact ∧
    65535 < 2 ^ bySize Size.word 8 16 ∧ s.ports.d0 = BitVec.ofInt 32 (((65535 : Nat) : Int) - (0 : Nat)) ∧
    s.ports.d1 = BitVec.ofInt 32 (((65535 : Nat) : Int) - (0 : Nat)) ∧
    s.ports.d2 = BitVec.ofNat 32 65535 ^^^ BitVec.ofNat 32 0 :=
  ⟨at' .i8080 0 0 0 .word 65535 65535 65535, rfl, by decide, by decide, by decide, by decide⟩

theorem witness_LogicalShapeGivesLogicalFlags : ∃ s : State, s.RomIntact ∧ 65535 < 2 ^ bySize Size.word 8 16 ∧
    255 < 2 ^ bySize Size.byte 8 16 ∧ s.ports.d0 = BitVec.ofNat 32 255 ∧ s.ports.d1 = BitVec.ofNat 32 255 ∧
    s.ports.d2 = BitVec.ofNat 32 255 :=
  ⟨at' .i8080 0 0 0 .word 255 255 255, rfl, by decide, by decide, rfl, rfl, rfl⟩

theorem witness_AuxovfConstantsInRao : ∃ s : State, s.sz = .byte ∧ s.rao = 0xF0#32 :=
  ⟨regs 0 0 0xF0 .byte, rfl, rfl⟩

theorem witness_RdpfReadsParity : (regs 0 0x103 0 .word).RomIntact := rfl

theorem witness_RdflPacksTheSixFlags : 0x8D5#32 &&& 0x8D5#32 = 0x8D5#32 ∧ 0#32 &&& 0x8D5#32 = 0#32 := by decide

theorem witness_FlagReadsArePure_reads : isFlagRead .rdfl = true ∧ isFlagRead .rdsw = true := ⟨rfl, rfl⟩

theorem witness_FlagReadsArePure_function : ∃ s u : State, s ≠ u ∧ s.rzc = u.rzc ∧ s.rps = u.rps ∧ s.rao = u.rao ∧
    s.sz = u.sz ∧ s.parity = u.parity :=
  ⟨at' .i8080 1 2 3 .word 4 5 6, at' .pdp11 1 2 3 .word 7 8 9, by decide, rfl, rfl, rfl, rfl, rfl⟩

/-- RZC bit 17, RPS bit 9 and RAO bit 8 are the lowest that no formula reads. -/
theorem witness_UnobservableBitsStayUnobservable : ∃ s t : State, s ≠ t ∧ s.Indistinguishable t :=
  ⟨regs 0x1FFFF 0x181FF 0x8090 .word, regs 0x3FFFF 0x183FF 0x8190 .word, by decide,
    ⟨by decide, by decide, by decide, rfl, rfl, rfl, rfl, rfl⟩⟩

theorem witness_UnobservableBitsStayUnobservable_run : ∃ (k : Nat) (s t s' t' : State), s.Indistinguishable t ∧
    run (k + 1) s = .next s' ∧ run (k + 1) t = .next t' :=
  ⟨0, regs 0 0 0 .byte, regs 0x20000 0 0 .byte, _, _, ⟨by decide, by decide, by decide, rfl, rfl, rfl, rfl, rfl⟩,
    rfl, rfl⟩

theorem witness_LdflSeedsTheRegisters : (at' .pdp11 0 0 0 .word 0x8D5 0 0).RomIntact := rfl

theorem witness_SeededFlagsAreTheInputs : (at' .i8080 5 6 7 .byte 0x041 0 0).RomIntact := rfl

theorem witness_WidthChangeAfterSeedLosesFlags : (at' .i8080 0 0 0 .byte 0x041 0 0).RomIntact ∧
    (at' .pdp11 0 0 0 .word 0xFFFFFFFF 0 0).RomIntact := ⟨rfl, rfl⟩

theorem witness_WrswSeedsFromTheStatusWord : (at' .pdp11 0 0x80 0x7E .byte 0xFFFF 0 0).RomIntact := rfl

theorem witness_LegalStatusWordsAreCounted :
    0x0AD5#16 &&& byVariant .i8080 0x0AD5#16 0x02D5#16 = 0x0AD5#16 ∧ legalStatusWord .i8080 0x0AD7#16 = true ∧
    legalStatusWord .pdp11 0x0AD7#16 = false ∧ legalStatusWord .pdp11 0x02D7#16 = true ∧
    legalStatusWord .pdp11 0x02D5#16 = false := by decide

theorem witness_StatusWordRoundTrip : ∃ (s : State) (w : BitVec 16) (a b c d : Word) (rest : List Ports),
    s.RomIntact ∧ legalStatusWord s.variant w = true ∧
    s.pending =
      { rst := false, cmd := 0x000C#16, d0 := w.setWidth 32, d1 := a, d2 := b } ::
      { rst := false, cmd := 0x000B#16, d0 := (w &&& byVariant s.variant 0x0A00#16 0x0200#16).setWidth 32,
        d1 := c, d2 := d } :: rest :=
  ⟨{ regs 0 0 0 .byte with pending := [⟨false, 0x000C, 0x0A87, 1, 2⟩, ⟨false, 0x000B, 0x0A00, 3, 4⟩] }, 0x0A87#16,
    1, 2, 3, 4, [], rfl, by decide, by decide⟩

theorem witness_CommandsAreIdempotent : ∃ s t : State, s.variant = .pdp11 ∧ s ≠ t ∧ exec .wrsw s = .next t :=
  ⟨at' .pdp11 0 0x80 0x7E .byte 2 0 0, _, rfl, by decide, rfl⟩

theorem witness_UnlistedDataBitsAreIgnored : ∃ p p' : Ports, p ≠ p' ∧ SameDataRead .i8080 (.wrres 0b0010#4 .byte) p p' ∧
    SameDataRead .i8080 .par p p' ∧ SameDataRead .pdp11 .wrsw p p' ∧ SameDataRead .pdp11 .rdsw p p' ∧
    SameDataRead .pdp11 .ldfl p p' :=
  ⟨⟨false, 0, 0x0100, 5, 6⟩, ⟨false, 0, 0x1000, 5, 7⟩, by decide,
    by unfold SameDataRead; decide, by unfold SameDataRead; decide, by unfold SameDataRead; decide,
    by unfold SameDataRead; decide, by unfold SameDataRead; decide⟩

theorem witness_LegalRequesterNeverSeesIll : State.RequesterLegal { regs 0 0 0 .byte with
    pending := [⟨true, 0x000D, 0, 0, 0⟩, ⟨false, 0x000C, 0, 0, 0⟩] } := by
  intro p hp
  obtain rfl | rfl : p = ⟨true, 0x000D, 0, 0, 0⟩ ∨ p = ⟨false, 0x000C, 0, 0, 0⟩ := by simpa using hp
  · exact .inl rfl
  · exact .inr ⟨.wrsw, by decide⟩

theorem witness_DebuggerReadDisturbsNothing : ∃ p : Ports, p.rst = false ∧ p.cmd = 0x000B#16 :=
  ⟨⟨false, 0x000B, 0x0200, 0, 0⟩, rfl, rfl⟩

theorem witness_BootSequencesFixTheFlags_ldfl : ∃ (s : State) (p r : Ports) (rest : List Ports), s.RomIntact ∧
    s.pending = p :: r :: rest ∧ p.rst = false ∧ r.rst = false ∧ p.cmd = bySize .byte 0x0081#16 0x0181#16 ∧
    r.cmd = 0x000A#16 :=
  ⟨{ regs 0 0 0 .word with pending := [⟨false, 0x0081, 0, 0, 0⟩, ⟨false, 0x000A, 0x8D5, 0, 0⟩] }, _, _, _,
    rfl, rfl, rfl, rfl, rfl, rfl⟩

theorem witness_BootSequencesFixTheFlags_wrsw : ∃ (s : State) (p r : Ports) (rest : List Ports), s.RomIntact ∧
    s.pending = p :: r :: rest ∧ p.rst = false ∧ r.rst = false ∧ p.cmd = bySize .word 0x0081#16 0x0181#16 ∧
    r.cmd = 0x000C#16 :=
  ⟨{ regs 0 0 0 .byte with pending := [⟨false, 0x0181, 0, 0, 0⟩, ⟨false, 0x000C, 0x0A87, 0, 0⟩] }, _, _, _,
    rfl, rfl, rfl, rfl, rfl, rfl⟩

theorem witness_PseudoInstructionExpansions : Asm.Value.wf (.hex 0xFFFFFFFF) = true ∧
    Asm.Value.wf (.dec (-2147483648)) = true := by decide

theorem witness_AssembledStatementsAreLegal : Asm.Value.wf (.hex 0xFFFFFFFF) = true ∧ Asm.Value.wf (.dec (-1)) = true ∧
    Asm.Stmt.wf (.wrres []) = true := by decide

theorem witness_NumbersStandForTheirValue : (0xFFFFFFFF : Nat) < 2 ^ 32 ∧ (2 : Nat) ^ 32 ≤ 0x100000000 ∧
    (-2 : Int) ^ 31 ≤ -2147483648 ∧ (-1 : Int) < 0 := by decide

theorem witness_IllFormedStatementsDriveNothing : Asm.Stmt.wf (.par (.hex 0x100000000)) = false ∧
    (-2147483649 : Int) < -2 ^ 31 ∧ Asm.Value.wf (.dec (-2147483649)) = false ∧
    (Asm.WrresOperand.zc (.hex 1)).name = (Asm.WrresOperand.zc (.hex 2)).name := by decide

theorem witness_WrresOperandsInAnyOrder : ∃ os os' : List Asm.WrresOperand, os ≠ os' ∧ os.Perm os' ∧
    Asm.Stmt.wf (.wrres os) = true :=
  ⟨[.zc (.hex 1), .sz .word], [.sz .word, .zc (.hex 1)], by decide, .swap _ _ _, by decide⟩

theorem witness_WrresOperandsSetEnablesAndValues : ∃ os : List Asm.WrresOperand, Asm.Stmt.wf (.wrres os) = true ∧
    Asm.WrresOperand.zc (.hex 1) ∈ os ∧ Asm.WrresOperand.sz .word ∈ os ∧ (∀ v, Asm.WrresOperand.ps v ∉ os) ∧
    ∀ v, Asm.WrresOperand.ao v ∉ os :=
  ⟨[.zc (.hex 1), .sz .word], by decide, by decide, by decide, by simp, by simp⟩

end Sys2Proof.Tests
end

section
/-! Proofs for the statements of 00_scope.md: what no step writes, and the producer's AUXOVF constants. -/

namespace Sys2Proof.Machine

/-- Settles O17: by the three things a step can do, each of which keeps both fields. -/
theorem noStepWritesVariantOrParity : Obligations.NoStepWritesVariantOrParity := by
  intro s t h
  obtain ⟨-, rfl⟩ | ⟨-, i, -, hexec⟩ | ⟨-, r, -, rfl⟩ := step_cases s t h
  · exact ⟨rfl, rfl⟩
  · obtain ⟨hparity, hvariant, -⟩ := exec_next_keeps i s.present t hexec
    exact ⟨hvariant, hparity⟩
  · exact ⟨rfl, rfl⟩

/-! ### RAO in the flags -/

/-- Of the six formulas only those of AF and OF read RAO (10_state.md R19). -/
theorem flags_with_rao (s : State) (r : Word) :
    State.flags { s with rao := r } =
      { s.flags with af := auxFlag s.rps r, of := overflowFlag s.rps r s.sz } := rfl

theorem auxFlag_xor_rao (rps rao m : Word) : auxFlag rps (rao ^^^ m) = (auxFlag rps rao ^^ m.getLsbD 4) := by
  simp only [auxFlag_eq, BitVec.getLsbD_xor, Bool.xor_assoc]

theorem overflowFlag_xor_rao (rps rao m : Word) (sz : Size) :
    overflowFlag rps (rao ^^^ m) sz = (overflowFlag rps rao sz ^^ m.getLsbD (bySize sz 7 15)) := by
  cases sz with
  | byte => simp only [overflowFlag_byte, BitVec.getLsbD_xor, bySize, Bool.xor_assoc, Bool.xor_comm]
  | word => simp only [overflowFlag_word, BitVec.getLsbD_xor, bySize, Bool.xor_assoc, Bool.xor_comm]

/-- XOR of `m` into RAO inverts AF where `m` has bit 4, and OF where it has the sign bit of the width (R67 to R72). -/
theorem flags_xor_rao (s : State) (m : Word) :
    State.flags { s with rao := s.rao ^^^ m } =
      { s.flags with af := s.flags.af ^^ m.getLsbD 4, of := s.flags.of ^^ m.getLsbD (bySize s.sz 7 15) } := by
  rw [flags_with_rao, auxFlag_xor_rao, overflowFlag_xor_rao]
  rfl

/-! ### Bit 4 and the two sign bits of each AUXOVF constant (00_scope.md R11) -/

@[simp] theorem getElem_auxovfAf_four : Config.auxovfAf[4] = true := rfl
@[simp] theorem getElem_auxovfOf_four : Config.auxovfOf[4] = false := rfl
@[simp] theorem getElem_auxovfCf_four : Config.auxovfCf[4] = false := rfl

@[simp] theorem getLsbD_auxovfAf_sign (sz : Size) : Config.auxovfAf.getLsbD (bySize sz 7 15) = false := by
  cases sz <;> rfl
@[simp] theorem getLsbD_auxovfOf_sign (sz : Size) : Config.auxovfOf.getLsbD (bySize sz 7 15) = true := by
  cases sz <;> rfl
@[simp] theorem getLsbD_auxovfCf_sign (sz : Size) : Config.auxovfCf.getLsbD (bySize sz 7 15) = false := by
  cases sz <;> rfl

/-- Settles O28: each XOR by the bits of its constant. The addition to 0xF0 carries from bit 4 up to bit 8, so it
is the XOR of 0x1F0, which has bit 7. -/
theorem auxovfConstantsInRao : Obligations.AuxovfConstantsInRao := by
  refine ⟨fun s => ?_, fun s => ?_, fun s => ?_, fun s hsz hrao => ?_⟩
  · simp [flags_xor_rao]
  · simp [flags_xor_rao]
  · simp [flags_xor_rao]
  · have hadd : s.rao + Config.auxovfAf = s.rao ^^^ 0x1F0#32 := by rw [hrao]; rfl
    rw [hadd, flags_xor_rao, hsz]
    simp [bySize]

end Sys2Proof.Machine
end

section
/-! Proofs for the statements of 10_state.md: the invariant at reset, what is no state, which commands write which
register, and the bits no command can see. -/

namespace Sys2Proof.Machine

/-! ### The invariant at reset -/

/-- PARITY is R60's and both outputs are 0 right after reset (R31), whatever the open contents. -/
theorem State.resetOf_inv (v : Variant) (rzc rps rao : Word) (sz : Size) : (State.resetOf v rzc rps rao sz).Inv where
  rom := rfl
  outputs := ⟨Nat.two_pow_pos 16, fun _ => rfl⟩

/-- Settles O15: `State.reset` is one of the reset states `State.resetOf` describes. -/
theorem resetMeetsTheInvariant : Obligations.ResetMeetsTheInvariant :=
  ⟨State.resetOf_inv _ _ _ _ _, State.resetOf_inv⟩

/-! ### The values on the ports are no state (R15) -/

/-- No command reads the outputs of an earlier step, and every command drives both. -/
theorem exec_output (i : Instr) (s : State) (q : Word) (ill : Bool) : exec i (s.output q ill) = exec i s := by
  cases i <;> rfl

theorem State.resetStep_output (s : State) (q : Word) (ill : Bool) : (s.output q ill).resetStep = s.resetStep := rfl

theorem State.reserved_output (s : State) (q : Word) (ill : Bool) : (s.output q ill).reserved = s.reserved :=
  s.output_output q 0#32 ill true

/-- Two states that differ in the outputs alone, once the next inputs are on the ports, take the same step. -/
theorem step_eq_of_present_output {s s' : State} {q : Word} {ill : Bool} (h : s'.present = s.present.output q ill) :
    step s' = step s := by
  have hports : s'.nextPorts = s.nextPorts := congrArg State.ports h
  cases hr : s.nextPorts.rst with
  | true => rw [step_reset s hr, step_reset s' (hports ▸ hr), h, State.resetStep_output]
  | false =>
    cases hd : decode s.nextPorts.cmd with
    | ok i => rw [step_command s i hr hd, step_command s' i (hports ▸ hr) (hports ▸ hd), h, exec_output]
    | error r =>
      rw [step_reserved s r hr hd, step_reserved s' r (hports ▸ hr) (hports ▸ hd), h, State.reserved_output]

/-- Settles O5: the next inputs replace those on the ports before anything reads them, so that only the outputs of an
earlier step still differ. -/
theorem portValuesAreNotState : Obligations.PortValuesAreNotState :=
  fun _ _ _ _ => step_eq_of_present_output rfl

/-! ### Which commands write a register -/

/-- A command that goes on drives the outputs alone, or it is WRRES, LDFL or WRSW with its register writes. -/
theorem exec_next_cases (i : Instr) (s t : State) (h : exec i s = .next t) :
    (∃ q, t = s.output q false) ∨
    (∃ we szv, i = .wrres we szv ∧ t = (s.writeResults we szv).output 0#32 false) ∨
    (i = .ldfl ∧ t = (s.seedFlags (packedFlags s.ports.d0)).output 0#32 false) ∨
    (i = .wrsw ∧ t = (s.seedFlags (statusWordFlags s.variant s.ports.d0 s.flags.of)).output 0#32 false) := by
  cases i with
  | wrres we szv => exact .inr (.inl ⟨we, szv, rfl, (complete_eq_next _ _ _).1 h⟩)
  | ldfl => exact .inr (.inr (.inl ⟨rfl, (complete_eq_next _ _ _).1 h⟩))
  | wrsw => exact .inr (.inr (.inr ⟨rfl, (complete_eq_next _ _ _).1 h⟩))
  | nop | rdfl | rdcf | rdpf | rdaf | rdzf | rdsf | rdof | par | rdsw =>
    exact .inl ⟨_, (complete_eq_next _ _ _).1 h⟩

/-- What a step that is no reset step writes: the outputs alone, the registers a WRRES enables, or a seed. -/
theorem step_writes (s t : State) (h : step s = .next t) (hr : s.nextPorts.rst = false) :
    (∃ q ill, t = s.present.output q ill) ∨
    (∃ we szv, decode s.nextPorts.cmd = .ok (.wrres we szv) ∧
      t = (s.present.writeResults we szv).output 0#32 false) ∨
    (SeedingCommand s.nextPorts.cmd ∧ ∃ f, t = (s.present.seedFlags f).output 0#32 false) := by
  obtain ⟨hrst, -⟩ | ⟨-, i, hd, hexec⟩ | ⟨-, -, -, rfl⟩ := step_cases s t h
  · rw [hr] at hrst
    contradiction
  · obtain ⟨q, rfl⟩ | ⟨we, szv, rfl, rfl⟩ | ⟨rfl, rfl⟩ | ⟨rfl, rfl⟩ := exec_next_cases i s.present t hexec
    · exact .inl ⟨q, false, rfl⟩
    · exact .inr (.inl ⟨we, szv, hd, rfl⟩)
    · exact .inr (.inr ⟨.inl hd, _, rfl⟩)
    · exact .inr (.inr ⟨.inr hd, _, rfl⟩)
  · exact .inl ⟨0#32, true, rfl⟩

/-- Settles O18: neither the outputs nor a seed write SZ (R80), and WRRES writes it exactly where `we[3]` enables it. -/
theorem sizeWrittenOnlyByWrresAndReset : Obligations.SizeWrittenOnlyByWrresAndReset := by
  intro s t h hne
  cases hr : s.nextPorts.rst with
  | true => exact .inl rfl
  | false =>
    right
    obtain ⟨q, ill, rfl⟩ | ⟨we, szv, hd, rfl⟩ | ⟨-, f, rfl⟩ := step_writes s t h hr
    · exact absurd rfl hne
    · have hwe : we.getLsbD 3 = true := (ite_ne_right_iff.1 hne).1
      exact ⟨we, szv, hd, hwe, if_pos hwe⟩
    · exact absurd rfl hne

/-- Settles O19: a seed is named by the statement, the outputs are no register, and WRRES writes a register exactly
where its enable is 1, so that a change of the flags needs some enable. -/
theorem registersAndFlagsChangeOnlyBy : Obligations.RegistersAndFlagsChangeOnlyBy := by
  intro s t h hr
  obtain ⟨q, ill, rfl⟩ | ⟨we, szv, hd, rfl⟩ | ⟨hseed, -⟩ := step_writes s t h hr
  · exact ⟨absurd rfl, absurd rfl, absurd rfl, absurd rfl⟩
  · refine ⟨fun hne => ?_, fun hne => ?_, fun hne => ?_, fun hne => ?_⟩
    · exact .inr ⟨we, szv, hd, (ite_ne_right_iff.1 hne).1⟩
    · exact .inr ⟨we, szv, hd, (ite_ne_right_iff.1 hne).1⟩
    · exact .inr ⟨we, szv, hd, (ite_ne_right_iff.1 hne).1⟩
    · refine .inr ⟨we, szv, hd, ?_⟩
      rintro rfl
      rw [State.writeResults_none] at hne
      exact hne rfl
  · exact ⟨fun _ => .inl hseed, fun _ => .inl hseed, fun _ => .inl hseed, fun _ => .inl hseed⟩

/-! ### The flags read only observable bits (R17 to R19) -/

theorem carryFlag_and_observable (rzc : Word) (sz : Size) : carryFlag (rzc &&& observableRzc) sz = carryFlag rzc sz := by
  have hmask : observableRzc &&& sizeMask sz = sizeMask sz := by cases sz <;> rfl
  rw [carryFlag, BitVec.and_assoc, hmask, carryFlag]

theorem zeroFlag_and_observable (rzc : Word) (sz : Size) : zeroFlag (rzc &&& observableRzc) sz = zeroFlag rzc sz := by
  have hmask : observableRzc &&& lowMask sz = lowMask sz := by cases sz <;> rfl
  rw [zeroFlag, BitVec.and_assoc, hmask, zeroFlag]

theorem signFlag_and_observable (rps : Word) (sz : Size) : signFlag (rps &&& observableRps) sz = signFlag rps sz := by
  have hmask : observableRps &&& signMask sz = signMask sz := by cases sz <;> rfl
  rw [signFlag, BitVec.and_assoc, hmask, signFlag]

theorem parityFlag_and_observable (table : ParityTable) (rps : Word) :
    parityFlag table (rps &&& observableRps) = parityFlag table rps := by
  have hmask : observableRps.extractLsb' 0 8 = BitVec.allOnes 8 := rfl
  rw [parityFlag, BitVec.extractLsb'_and, hmask, BitVec.and_allOnes, parityFlag]

theorem auxFlag_and_observable (rps rao : Word) :
    auxFlag (rps &&& observableRps) (rao &&& observableRao) = auxFlag rps rao := by
  simp [auxFlag_eq, observableRps, observableRao]

theorem overflowFlag_and_observable (rps rao : Word) (sz : Size) :
    overflowFlag (rps &&& observableRps) (rao &&& observableRao) sz = overflowFlag rps rao sz := by
  cases sz with
  | byte => simp [overflowFlag_byte, observableRps, observableRao]
  | word => simp [overflowFlag_word, observableRps, observableRao]

/-- The flags of a state are those of its observable bits alone. -/
theorem State.flags_and_observable (s : State) :
    State.flags
      { s with rzc := s.rzc &&& observableRzc, rps := s.rps &&& observableRps, rao := s.rao &&& observableRao } =
      s.flags := by
  simp only [State.flags, carryFlag_and_observable, zeroFlag_and_observable, signFlag_and_observable,
    parityFlag_and_observable, auxFlag_and_observable, overflowFlag_and_observable]

/-! ### What keeps two states indistinguishable -/

namespace State.Indistinguishable

variable {s t : State} (h : s.Indistinguishable t)
include h

theorem flags_eq : s.flags = t.flags := by
  rw [← s.flags_and_observable, ← t.flags_and_observable]
  simp only [State.flags, h.rzc, h.rps, h.rao, h.sz, h.parity]

/-- Indistinguishable states have the same inputs coming. -/
theorem nextPorts_eq : s.nextPorts = t.nextPorts := by
  rw [State.nextPorts, h.pending, State.nextPorts]

theorem present : s.present.Indistinguishable t.present :=
  { h with pending := congrArg List.tail h.pending }

theorem output (q q' : Word) (ill ill' : Bool) : (s.output q ill).Indistinguishable (t.output q' ill') :=
  { h with }

/-- WRRES writes the same data to both, and leaves what it does not enable. -/
theorem writeResults (hp : s.ports = t.ports) (we : BitVec 4) (szv : Size) :
    (s.writeResults we szv).Indistinguishable (t.writeResults we szv) where
  rzc := by simp only [writeResults_rzc, hp]; split <;> simp only [h.rzc]
  rps := by simp only [writeResults_rps, hp]; split <;> simp only [h.rps]
  rao := by simp only [writeResults_rao, hp]; split <;> simp only [h.rao]
  sz := by simp only [writeResults_sz, h.sz]
  parity := h.parity
  variant := h.variant
  pending := h.pending
  resets := h.resets

/-- A seed's contents come from PARITY, SZ and the flags seeded (R78), which the two states share. -/
theorem seedFlags (f : Flags) : (s.seedFlags f).Indistinguishable (t.seedFlags f) where
  rzc := by simp only [seedFlags_rzc, h.parity, h.sz]
  rps := by simp only [seedFlags_rps, h.parity, h.sz]
  rao := by simp only [seedFlags_rao, h.parity, h.sz]
  sz := h.sz
  parity := h.parity
  variant := h.variant
  pending := h.pending
  resets := h.resets

/-- A reset step makes the same draw in both. -/
theorem resetStep : s.resetStep.Indistinguishable t.resetStep where
  rzc := by simp only [resetStep_rzc, h.resets]
  rps := by simp only [resetStep_rps, h.resets]
  rao := by simp only [resetStep_rao, h.resets]
  sz := by simp only [resetStep_sz, h.resets]
  parity := h.parity
  variant := h.variant
  pending := h.pending
  resets := by simp only [resetStep_resets, h.resets]

end State.Indistinguishable

/-! ### Indistinguishable states give the same outputs (R27) -/

/-- Both go on, with the same outputs, to states that stay indistinguishable. -/
def SameOutputs (r r' : Result) : Prop :=
  ∃ s t, r = .next s ∧ r' = .next t ∧ s.q = t.q ∧ s.ill = t.ill ∧ s.Indistinguishable t

theorem complete_sameOutputs {s t : State} {q q' : Word} (hq : q = q') (h : s.Indistinguishable t) :
    SameOutputs (complete q s) (complete q' t) :=
  ⟨_, _, rfl, rfl, hq, rfl, h.output q q' false false⟩

/-- A command's result is a function of the flags, VARIANT, PARITY and the data on the ports, and what it writes keeps
the states indistinguishable. -/
theorem exec_sameOutputs (i : Instr) {s t : State} (h : s.Indistinguishable t) (hp : s.ports = t.ports) :
    SameOutputs (exec i s) (exec i t) := by
  have hflags := h.flags_eq
  cases i with
  | nop => exact complete_sameOutputs rfl h
  | wrres we szv => exact complete_sameOutputs rfl (h.writeResults hp we szv)
  | rdfl | rdcf | rdpf | rdaf | rdzf | rdsf | rdof => exact complete_sameOutputs (by rw [hflags]) h
  | par => exact complete_sameOutputs (by rw [h.parity, hp]) h
  | rdsw => exact complete_sameOutputs (by rw [h.variant, hp, hflags]) h
  | ldfl =>
    refine complete_sameOutputs rfl ?_
    rw [hp]
    exact h.seedFlags _
  | wrsw =>
    refine complete_sameOutputs rfl ?_
    rw [h.variant, hp, hflags]
    exact h.seedFlags _

theorem step_sameOutputs {s t : State} (h : s.Indistinguishable t) : SameOutputs (step s) (step t) := by
  have hports := h.nextPorts_eq
  cases hr : s.nextPorts.rst with
  | true =>
    rw [step_reset s hr, step_reset t (hports ▸ hr)]
    exact ⟨_, _, rfl, rfl, rfl, rfl, h.present.resetStep⟩
  | false =>
    cases hd : decode s.nextPorts.cmd with
    | ok i =>
      rw [step_command s i hr hd, step_command t i (hports ▸ hr) (hports ▸ hd)]
      exact exec_sameOutputs i h.present hports
    | error r =>
      rw [step_reserved s r hr hd, step_reserved t r (hports ▸ hr) (hports ▸ hd)]
      exact ⟨_, _, rfl, rfl, rfl, rfl, h.present.output _ _ _ _⟩

theorem run_succ_sameOutputs (k : Nat) {s t : State} (h : s.Indistinguishable t) :
    SameOutputs (run (k + 1) s) (run (k + 1) t) := by
  induction k generalizing s t with
  | zero =>
    obtain ⟨s₁, t₁, hs, ht, hout⟩ := step_sameOutputs h
    rw [run_succ 0 s s₁ hs, run_succ 0 t t₁ ht]
    exact ⟨s₁, t₁, rfl, rfl, hout⟩
  | succ k ih =>
    obtain ⟨s₁, t₁, hs, ht, -, -, h₁⟩ := step_sameOutputs h
    rw [run_succ (k + 1) s s₁ hs, run_succ (k + 1) t t₁ ht]
    exact ih h₁

/-- Settles O40: one step gives both states the same outputs and keeps them indistinguishable, and so does every run,
by induction on its steps. -/
theorem unobservableBitsStayUnobservable : Obligations.UnobservableBitsStayUnobservable := by
  refine ⟨fun s t h => step_sameOutputs h, fun k s t s' t' h hs ht => ?_⟩
  obtain ⟨u, v, hu, hv, hq, hill, -⟩ := run_succ_sameOutputs k h
  obtain rfl : u = s' := by simpa [hu] using hs
  obtain rfl : v = t' := by simpa [hv] using ht
  exact ⟨hq, hill⟩

end Sys2Proof.Machine
end

section
/-! Proofs for the statements of 30_encoding.md about the command word: its fields, `decode` and `encode` as inverses
of each other, the legal words, and the opcode table. -/

namespace Sys2Proof

/-! ### The fields of a command word (R45) -/

section Fields

variable (szv : BitVec 1) (we op : BitVec 4)

@[simp] theorem resField_commandWord : resField (commandWord szv we op) = 0#7 := by
  rw [resField, commandWord, BitVec.extractLsb'_append_eq_of_le (by decide),
    BitVec.extractLsb'_append_eq_of_le (by decide), BitVec.extractLsb'_append_eq_of_le (by decide)]
  rfl

@[simp] theorem opField_commandWord : opField (commandWord szv we op) = op := by
  rw [opField, commandWord, BitVec.extractLsb'_append_eq_of_add_le (by decide)]
  exact BitVec.extractLsb'_eq_self

@[simp] theorem weField_commandWord : weField (commandWord szv we op) = we := by
  rw [weField, commandWord, BitVec.extractLsb'_append_eq_of_le (by decide),
    BitVec.extractLsb'_append_eq_of_add_le (by decide)]
  exact BitVec.extractLsb'_eq_self

@[simp] theorem szvField_commandWord : szvField (commandWord szv we op) = szv.getLsbD 0 := by
  simp only [szvField, commandWord, BitVec.getLsbD_append]
  rfl

end Fields

theorem ofBool_szvField (cmd : Cmd) : BitVec.ofBool (szvField cmd) = cmd.extractLsb' 8 1 := by
  ext i hi
  obtain rfl : i = 0 := by omega
  simp [szvField]

/-- A word with `res` 0 is put together from its other fields. -/
theorem commandWord_fields {cmd : Cmd} (hres : resField cmd = 0#7) :
    commandWord (BitVec.ofBool (szvField cmd)) (weField cmd) (opField cmd) = cmd := by
  rw [commandWord, ← hres, resField, ofBool_szvField, weField, opField,
    BitVec.extractLsb'_append_extractLsb'_eq_extractLsb' (by rfl),
    BitVec.extractLsb'_append_extractLsb'_eq_extractLsb' (by rfl),
    BitVec.extractLsb'_append_extractLsb'_eq_extractLsb' (by rfl)]
  exact BitVec.extractLsb'_eq_self

/-- A word with no bit above `op` is its `op` alone. -/
theorem commandWord_opField {cmd : Cmd} (hres : resField cmd = 0#7) (hfields : weSzvFields cmd = 0#5) :
    commandWord 0#1 0#4 (opField cmd) = cmd :=
  calc commandWord 0#1 0#4 (opField cmd)
    _ = resField cmd ++ weSzvFields cmd ++ opField cmd := by rw [hres, hfields]; rfl
    _ = cmd := by
      rw [resField, weSzvFields, opField, BitVec.extractLsb'_append_extractLsb'_eq_extractLsb' (by rfl),
        BitVec.extractLsb'_append_extractLsb'_eq_extractLsb' (by rfl)]
      exact BitVec.extractLsb'_eq_self

theorem toNat_opField (cmd : Cmd) : (opField cmd).toNat = cmd.toNat % 16 := BitVec.extractLsb'_toNat 0 4 cmd

theorem toNat_weSzvFields (cmd : Cmd) : (weSzvFields cmd).toNat = cmd.toNat / 16 % 32 := by
  rw [weSzvFields, BitVec.extractLsb'_toNat, Nat.shiftRight_eq_div_pow]

theorem toNat_resField (cmd : Cmd) : (resField cmd).toNat = cmd.toNat / 512 := by
  rw [resField, BitVec.extractLsb'_toNat, Nat.shiftRight_eq_div_pow]
  omega

theorem Size.ofBit_toBit (szv : Size) : Size.ofBit (szv.toBit.getLsbD 0) = szv := by
  cases szv <;> rfl

theorem Size.toBit_ofBit (b : Bool) : (Size.ofBit b).toBit = BitVec.ofBool b := by
  cases b <;> rfl

/-! ### The four cases of R52 -/

section Decode

variable {cmd : Cmd}

theorem decode_of_resField_ne (hres : resField cmd ≠ 0#7) : decode cmd = .error .res := if_pos hres

theorem decode_of_opField_one (hres : resField cmd = 0#7) (hop : opField cmd = 0x1#4) :
    decode cmd = .ok (.wrres (weField cmd) (.ofBit (szvField cmd))) := by
  simp [decode, hres, hop]

theorem decode_of_weSzvFields_ne (hres : resField cmd = 0#7) (hop : opField cmd ≠ 0x1#4)
    (hfields : weSzvFields cmd ≠ 0#5) : decode cmd = .error .fields := by
  simp [decode, hres, hop, hfields]

theorem decode_of_fields_zero (hres : resField cmd = 0#7) (hop : opField cmd ≠ 0x1#4)
    (hfields : weSzvFields cmd = 0#5) : decode cmd = decodeOp (opField cmd) := by
  simp [decode, hres, hop, hfields]

/-- A word that decodes has `res` 0, and it is a WRRES word or has only `op`, which selects the command. -/
theorem decode_ok_cases {i : Instr} (h : decode cmd = .ok i) :
    resField cmd = 0#7 ∧
      ((opField cmd = 0x1#4 ∧ i = .wrres (weField cmd) (.ofBit (szvField cmd))) ∨
        (weSzvFields cmd = 0#5 ∧ decodeOp (opField cmd) = .ok i)) := by
  by_cases hres : resField cmd = 0#7
  · refine ⟨hres, ?_⟩
    by_cases hop : opField cmd = 0x1#4
    · rw [decode_of_opField_one hres hop] at h
      injection h with h
      exact .inl ⟨hop, h.symm⟩
    · by_cases hfields : weSzvFields cmd = 0#5
      · exact .inr ⟨hfields, decode_of_fields_zero hres hop hfields ▸ h⟩
      · rw [decode_of_weSzvFields_ne hres hop hfields] at h
        contradiction
  · rw [decode_of_resField_ne hres] at h
    contradiction

end Decode

/-- The word of a command that `op` alone selects. -/
theorem encode_of_decodeOp {op : BitVec 4} {i : Instr} (h : decodeOp op = .ok i) :
    encode i = commandWord 0#1 0#4 op := by
  have hop : opOf i = op ∧ encode i = commandWord 0#1 0#4 (opOf i) := by
    unfold decodeOp at h
    split at h <;> cases h <;> exact ⟨BitVec.eq_of_toNat_eq (Eq.symm ‹_›), rfl⟩
  obtain ⟨rfl, henc⟩ := hop
  exact henc

/-! ### `decode` and `encode` are inverses of each other -/

theorem decode_encode (i : Instr) : decode (encode i) = .ok i := by
  cases i with
  | wrres we szv =>
    rw [encode, opOf, decode_of_opField_one (resField_commandWord _ _ _) (opField_commandWord _ _ _),
      weField_commandWord, szvField_commandWord, Size.ofBit_toBit]
  | nop | rdfl | rdcf | rdpf | rdaf | rdzf | rdsf | rdof | par | ldfl | rdsw | wrsw => rfl

theorem encode_of_decode {cmd : Cmd} {i : Instr} (h : decode cmd = .ok i) : encode i = cmd := by
  obtain ⟨hres, ⟨hop, rfl⟩ | ⟨hfields, hdec⟩⟩ := decode_ok_cases h
  · rw [encode, Size.toBit_ofBit, opOf, ← hop, commandWord_fields hres]
  · rw [encode_of_decodeOp hdec, commandWord_opField hres hfields]

theorem decode_eq_ok_iff (cmd : Cmd) (i : Instr) : decode cmd = .ok i ↔ encode i = cmd :=
  ⟨encode_of_decode, fun h => h ▸ decode_encode i⟩

theorem encode_injective : Function.Injective encode := by
  intro i j h
  have hok := (decode_eq_ok_iff _ i).2 h
  rw [decode_encode] at hok
  injection hok with hji
  exact hji.symm

/-- Settles O8: every command is well formed, and its word decodes to it. -/
theorem decodeOfEncodeIsTheCommand : Obligations.DecodeOfEncodeIsTheCommand :=
  fun i _ => decode_encode i

/-- Settles O9: `commandWord` puts a legal word together again from the fields that `decode` read. -/
theorem legalWordIsItsCommandsEncoding : Obligations.LegalWordIsItsCommandsEncoding :=
  fun _ _ => encode_of_decode

/-- Settles O12: by evaluating the decoder on the ten words. -/
theorem writtenOutWordsDecode : Obligations.WrittenOutWordsDecode := by
  unfold Obligations.WrittenOutWordsDecode
  decide

end Sys2Proof
end

section
/-! Proofs for the statements of 30_encoding.md about the legal words: which they are, how many, and the rows of the
opcode table that select them. -/

namespace Sys2Proof.Machine

/-! ### The legal words (R51, R52) -/

theorem legalWord_encode (i : Instr) : LegalWord (encode i) := ⟨i, decode_encode i⟩

/-- An `op` selects a command of its own unless it is 0x1, which is WRRES, or one of the three that R51 (a) reserves. -/
theorem exists_decodeOp_ok_iff (op : BitVec 4) : (∃ i, decodeOp op = .ok i) ↔ op ≠ 0x1#4 ∧ op.toNat < 13 := by
  have hok : (decodeOp op).isOk = true ↔ op ≠ 0x1#4 ∧ op.toNat < 13 := by
    revert op
    decide
  rw [← hok]
  cases decodeOp op <;> simp [Except.isOk, Except.toBool]

theorem legalWord_iff_fields (cmd : Cmd) :
    LegalWord cmd ↔
      resField cmd = 0#7 ∧ (opField cmd = 0x1#4 ∨ (weSzvFields cmd = 0#5 ∧ (opField cmd).toNat < 13)) := by
  constructor
  · rintro ⟨i, h⟩
    obtain ⟨hres, ⟨hop, -⟩ | ⟨hfields, hdec⟩⟩ := decode_ok_cases h
    · exact ⟨hres, .inl hop⟩
    · exact ⟨hres, .inr ⟨hfields, ((exists_decodeOp_ok_iff _).1 ⟨i, hdec⟩).2⟩⟩
  · rintro ⟨hres, hcases⟩
    by_cases hop : opField cmd = 0x1#4
    · exact ⟨_, decode_of_opField_one hres hop⟩
    · obtain ⟨hfields, hlt⟩ := hcases.resolve_left hop
      rw [LegalWord, decode_of_fields_zero hres hop hfields]
      exact (exists_decodeOp_ok_iff _).2 ⟨hop, hlt⟩

theorem legalWord_iff_not_reservedShape (cmd : Cmd) : LegalWord cmd ↔ ¬ReservedShape cmd := by
  rw [legalWord_iff_fields, ReservedShape, ← BitVec.toNat_inj, ← BitVec.toNat_inj, ← BitVec.toNat_inj,
    toNat_resField, toNat_opField, toNat_weSzvFields]
  simp only [BitVec.toNat_ofNat]
  omega

theorem exists_decode_error_of_reservedShape {cmd : Cmd} (h : ReservedShape cmd) : ∃ r, decode cmd = .error r := by
  cases hd : decode cmd with
  | ok i => exact absurd h ((legalWord_iff_not_reservedShape cmd).1 ⟨i, hd⟩)
  | error r => exact ⟨r, rfl⟩

theorem reservedShape_of_decode_error {cmd : Cmd} {r : Reserved} (h : decode cmd = .error r) : ReservedShape cmd := by
  by_contra hshape
  obtain ⟨i, hi⟩ := (legalWord_iff_not_reservedShape cmd).2 hshape
  rw [h] at hi
  contradiction

/-! ### The legal words counted (R52) -/

/-- WRRES with every value of `we` and `szv` (R47). -/
def wrresCommands : List Instr :=
  (List.finRange 16).flatMap fun we => [.wrres (BitVec.ofFin we) .byte, .wrres (BitVec.ofFin we) .word]

/-- The 12 commands that have no fields (R46, R47). -/
def otherCommands : List Instr :=
  [.nop, .rdfl, .rdcf, .rdpf, .rdaf, .rdzf, .rdsf, .rdof, .par, .ldfl, .rdsw, .wrsw]

theorem mem_wrresCommands (i : Instr) : i ∈ wrresCommands ↔ ∃ we szv, i = .wrres we szv := by
  simp only [wrresCommands, List.mem_flatMap, List.mem_finRange, true_and, List.mem_cons, List.not_mem_nil, or_false]
  constructor
  · rintro ⟨we, rfl | rfl⟩ <;> exact ⟨_, _, rfl⟩
  · rintro ⟨we, _ | _, rfl⟩
    · exact ⟨we.toFin, .inl rfl⟩
    · exact ⟨we.toFin, .inr rfl⟩

theorem mem_otherCommands (i : Instr) : i ∈ otherCommands ↔ ∀ we szv, i ≠ .wrres we szv := by
  cases i <;> simp [otherCommands]

/-- The words of some commands are those that decode to one of them. -/
theorem mem_map_encode (is : List Instr) (w : Cmd) : w ∈ is.map encode ↔ ∃ i ∈ is, decode w = .ok i := by
  simp only [List.mem_map, decode_eq_ok_iff]

/-- Settles O10: the words of the 32 WRRES commands and of the 12 others, distinct since `encode` is injective. -/
theorem thirtyTwoWrresWordsAndTwelveOthers : Obligations.ThirtyTwoWrresWordsAndTwelveOthers := by
  refine ⟨wrresCommands.map encode, otherCommands.map encode, rfl, List.Nodup.map encode_injective (by decide), rfl,
    List.Nodup.map encode_injective (by decide), fun w => ?_, fun w => ?_⟩
  · simp only [mem_map_encode, mem_wrresCommands]
    constructor
    · rintro ⟨-, ⟨we, szv, rfl⟩, hd⟩
      exact ⟨we, szv, hd⟩
    · rintro ⟨we, szv, hd⟩
      exact ⟨_, ⟨we, szv, rfl⟩, hd⟩
  · simp only [mem_map_encode, mem_otherCommands, and_comm]

/-! ### The opcode table (R57) -/

/-- A row fixes the whole word of one of the other commands, or it is the row of WRRES, which leaves `we` and `szv`
open. -/
theorem opcodeTable_rows : ∀ row ∈ opcodeTable,
    (row.mask = 0xFFFF#16 ∧ row.pattern ∈ otherCommands.map encode) ∨
      (row.mask = 0xFE0F#16 ∧ row.pattern = 0x0001#16) := by
  decide

theorem legalWord_of_selects {row : OpcodeRow} (hrow : row ∈ opcodeTable) {w : Cmd} (hsel : row.selects w = true) :
    LegalWord w := by
  have hw : w &&& row.mask = row.pattern := of_decide_eq_true hsel
  obtain ⟨hmask, hpattern⟩ | ⟨hmask, hpattern⟩ := opcodeTable_rows row hrow
  · have hfull : w &&& 0xFFFF#16 = w := BitVec.and_allOnes
    rw [← hw, hmask, hfull] at hpattern
    obtain ⟨i, -, hd⟩ := (mem_map_encode _ _).1 hpattern
    exact ⟨i, hd⟩
  · rw [hmask, hpattern] at hw
    have hres : resField w = resField (w &&& 0xFE0F#16) := by
      rw [resField, resField, BitVec.extractLsb'_and]
      exact BitVec.and_allOnes.symm
    have hop : opField w = opField (w &&& 0xFE0F#16) := by
      rw [opField, opField, BitVec.extractLsb'_and]
      exact BitVec.and_allOnes.symm
    rw [hw] at hres hop
    exact (legalWord_iff_fields w).2 ⟨hres, .inl hop⟩

theorem opcodeTable_filter_encode (i : Instr) :
    (opcodeTable.filter fun row => row.selects (encode i)).map OpcodeRow.mnemonic = [i.mnemonic] := by
  cases i with
  | wrres we szv =>
    revert we
    cases szv <;> decide
  | nop | rdfl | rdcf | rdpf | rdaf | rdzf | rdsf | rdof | par | ldfl | rdsw | wrsw => decide

/-- Settles O11: a legal word is some command's encoding, which is looked up command by command, and a word that a row
selects is legal. -/
theorem opcodeTableSelectsTheDecodedRow : Obligations.OpcodeTableSelectsTheDecodedRow := by
  refine fun w => ⟨fun i h => ?_, fun r h => ?_⟩
  · rw [← encode_of_decode h]
    exact opcodeTable_filter_encode i
  · refine List.filter_eq_nil_iff.2 fun row hrow hsel => ?_
    obtain ⟨i, hi⟩ := legalWord_of_selects hrow hsel
    rw [h] at hi
    contradiction

end Sys2Proof.Machine
end

section
/-! Proofs for the statements of 30_encoding.md about the step: what it runs, that it always goes on, when `ill` is 1,
and the data bits a command reads. -/

namespace Sys2Proof.Machine

/-- Settles O1: the first inputs of the list are those the step presents. -/
theorem stepRunsTheDecodedCommand : Obligations.StepRunsTheDecodedCommand := by
  intro s p rest i hpending hrst _ hdecode
  have hports := s.nextPorts_cons p rest hpending
  rw [step_command s i (hports ▸ hrst) (hports ▸ hdecode), s.present_cons p rest hpending]

/-- Settles O2: the idle inputs hold the word of NOP. -/
theorem idleStepIsNop : Obligations.IdleStepIsNop := by
  intro s hpending
  have hports := s.nextPorts_nil hpending
  have hdecode : decode s.nextPorts.cmd = .ok .nop := hports ▸ decode_encode .nop
  rw [step_command s .nop (hports ▸ rfl) hdecode, s.present_nil hpending]
  rfl

/-- Settles O3: a word of one of the three shapes decodes to no command, and every other word is legal. -/
theorem reservedWordOnlySignals : Obligations.ReservedWordOnlySignals := by
  refine ⟨fun s p rest hpending hrst hshape => ?_, legalWord_iff_not_reservedShape⟩
  obtain ⟨r, hdecode⟩ := exists_decode_error_of_reservedShape hshape
  have hports := s.nextPorts_cons p rest hpending
  rw [step_reserved s r (hports ▸ hrst) (hports ▸ hdecode), s.present_cons p rest hpending]
  rfl

/-! ### Every step goes on (R44, R89) -/

theorem exec_goes_on (i : Instr) (s : State) : ∃ t, exec i s = .next t := by
  cases i <;> exact ⟨_, rfl⟩

theorem step_goes_on (s : State) : ∃ t, step s = .next t := by
  cases hrst : s.nextPorts.rst with
  | true => exact ⟨_, step_reset s hrst⟩
  | false =>
    cases hdecode : decode s.nextPorts.cmd with
    | ok i => exact step_command s i hrst hdecode ▸ exec_goes_on i s.present
    | error r => exact ⟨_, step_reserved s r hrst hdecode⟩

theorem run_goes_on (k : Nat) (s : State) : ∃ t, run k s = .next t := by
  induction k generalizing s with
  | zero => exact ⟨s, run_zero s⟩
  | succ k ih =>
    obtain ⟨t, ht⟩ := step_goes_on s
    exact run_succ k s t ht ▸ ih t

/-- Whatever a step does, its inputs are on the ports afterwards and gone from the requester's list. -/
theorem step_takes_inputs {s t : State} (h : step s = .next t) :
    t.ports = s.nextPorts ∧ t.pending = s.pending.tail := by
  obtain ⟨-, rfl⟩ | ⟨-, i, -, hexec⟩ | ⟨-, r, -, rfl⟩ := step_cases s t h
  · exact ⟨rfl, rfl⟩
  · obtain ⟨-, -, hports, hpending, -, -⟩ := exec_next_keeps i s.present t hexec
    exact ⟨hports, hpending⟩
  · exact ⟨rfl, rfl⟩

/-- Settles O6: a reset step, every command and a reserved word answer a next state, and so does every run, by
induction on its steps. -/
theorem everyStepCompletes : Obligations.EveryStepCompletes := by
  refine ⟨fun s => ?_, run_goes_on⟩
  obtain ⟨t, ht⟩ := step_goes_on s
  exact ⟨t, ht, step_takes_inputs ht⟩

/-! ### When `ill` is 1 (R50) -/

theorem not_reservedShape_of_reset_or_legal {p : Ports} (h : p.rst = true ∨ LegalWord p.cmd) :
    ¬(p.rst = false ∧ ReservedShape p.cmd) := by
  rintro ⟨hrst, hshape⟩
  obtain hreset | hword := h
  · rw [hrst] at hreset
    contradiction
  · exact (legalWord_iff_not_reservedShape p.cmd).1 hword hshape

/-- A step drives `ill = 0`, for a reset or a legal word, or it does what a reserved word does. -/
theorem step_ill_cases {s t : State} (h : step s = .next t) :
    (t.ill = false ∧ (s.nextPorts.rst = true ∨ LegalWord s.nextPorts.cmd)) ∨
    (s.nextPorts.rst = false ∧ ReservedShape s.nextPorts.cmd ∧ t = s.present.reserved) := by
  obtain ⟨hrst, rfl⟩ | ⟨-, i, hdecode, hexec⟩ | ⟨hrst, r, hdecode, ht⟩ := step_cases s t h
  · exact .inl ⟨rfl, .inl hrst⟩
  · obtain ⟨-, -, -, -, -, hill⟩ := exec_next_keeps i s.present t hexec
    exact .inl ⟨hill, .inr ⟨i, hdecode⟩⟩
  · exact .inr ⟨hrst, reservedShape_of_decode_error hdecode, ht⟩

theorem step_ill_iff {s t : State} (h : step s = .next t) :
    t.ill = true ↔ s.nextPorts.rst = false ∧ ReservedShape s.nextPorts.cmd := by
  obtain ⟨hill, hlegal⟩ | ⟨hrst, hshape, rfl⟩ := step_ill_cases h
  · rw [hill, Bool.false_eq_true, false_iff]
    exact not_reservedShape_of_reset_or_legal hlegal
  · simp [hrst, hshape]

/-- Settles O4: only the step of a reserved word drives `ill = 1`, and it leaves all but the ports. -/
theorem illegalOutputExactlyOnReservedWord : Obligations.IllegalOutputExactlyOnReservedWord := by
  intro s
  obtain ⟨t, ht⟩ := step_goes_on s
  refine ⟨t, ht, step_ill_iff ht, fun hill => ?_⟩
  obtain ⟨hzero, -⟩ | ⟨-, -, rfl⟩ := step_ill_cases ht
  · rw [hzero] at hill
    contradiction
  · exact ⟨rfl, rfl, rfl, rfl, rfl, rfl, rfl⟩

/-- The idle step too presents a legal word, NOP's. -/
theorem State.RequesterLegal.nextPorts {s : State} (h : s.RequesterLegal) :
    s.nextPorts.rst = true ∨ LegalWord s.nextPorts.cmd := by
  cases hpending : s.pending with
  | nil => exact .inr (s.nextPorts_nil hpending ▸ legalWord_encode .nop)
  | cons p rest =>
    rw [s.nextPorts_cons p rest hpending]
    exact h p (hpending ▸ List.mem_cons_self)

/-- Settles O51: the next inputs are a reset or a legal word, and what is left to present is part of what was. -/
theorem legalRequesterNeverSeesIll : Obligations.LegalRequesterNeverSeesIll := by
  intro s hlegal
  obtain ⟨t, ht⟩ := step_goes_on s
  refine ⟨t, ht, ?_, fun p hp => ?_⟩
  · rw [← Bool.not_eq_true, step_ill_iff ht]
    exact not_reservedShape_of_reset_or_legal hlegal.nextPorts
  · obtain ⟨-, hpending⟩ := step_takes_inputs ht
    exact hlegal p (List.mem_of_mem_tail (hpending ▸ hp))

/-! ### The data bits a command reads (R48) -/

theorem parityIndex_eq_of_mod {x y : Word} (h : x.toNat % 256 = y.toNat % 256) : parityIndex x = parityIndex y := by
  apply BitVec.eq_of_toNat_eq
  simpa [parityIndex] using h

theorem packedFlags_and (d0 : Word) : packedFlags (d0 &&& 0x8D5#32) = packedFlags d0 := by
  simp [packedFlags]

theorem packedFlags_eq_of_and {x y : Word} (h : x &&& 0x8D5#32 = y &&& 0x8D5#32) : packedFlags x = packedFlags y := by
  rw [← packedFlags_and x, h, packedFlags_and]

theorem directBits_eq_of_and {v : Variant} {x y : Word}
    (h : x &&& byVariant v 0x0A00#32 0x0200#32 = y &&& byVariant v 0x0A00#32 0x0200#32) :
    directBits v x = directBits v y := by
  cases v <;> exact h

theorem statusWordFlags_and (v : Variant) (w : Word) (before : Bool) :
    statusWordFlags v (w &&& byVariant v 0x08D5#32 0x00D5#32) before = statusWordFlags v w before := by
  cases v <;> simp [statusWordFlags, overflowToSeed, byVariant]

theorem statusWordFlags_eq_of_and {v : Variant} {x y : Word}
    (h : x &&& byVariant v 0x08D5#32 0x00D5#32 = y &&& byVariant v 0x08D5#32 0x00D5#32) (before : Bool) :
    statusWordFlags v x before = statusWordFlags v y before := by
  rw [← statusWordFlags_and v x, h, statusWordFlags_and]

/-- The two states after WRRES differ in the ports alone where the enabled data agree. -/
theorem State.writeResults_with_ports (s : State) (p : Ports) (we : BitVec 4) (szv : Size)
    (h : SameDataRead s.variant (.wrres we szv) s.ports p) :
    State.writeResults { s with ports := p } we szv = { s.writeResults we szv with ports := p } := by
  obtain ⟨h0, h1, h2⟩ := h
  simp only [State.writeResults, State.mk.injEq, and_true]
  exact ⟨ite_congr rfl (fun h => (h0 h).symm) fun _ => rfl, ite_congr rfl (fun h => (h1 h).symm) fun _ => rfl,
    ite_congr rfl (fun h => (h2 h).symm) fun _ => rfl⟩

/-- Settles O50: each command reads its data through a function of the listed bits alone. -/
theorem unlistedDataBitsAreIgnored : Obligations.UnlistedDataBitsAreIgnored := by
  intro i s p h
  cases i with
  | nop | rdfl | rdcf | rdpf | rdaf | rdzf | rdsf | rdof => exact ⟨_, rfl, rfl⟩
  | wrres we szv =>
    refine ⟨_, rfl, ?_⟩
    exact congrArg (complete 0#32) (s.writeResults_with_ports p we szv h)
  | par =>
    refine ⟨_, rfl, ?_⟩
    rw [parityIndex_eq_of_mod h]
    rfl
  | ldfl =>
    refine ⟨_, rfl, ?_⟩
    rw [packedFlags_eq_of_and h]
    rfl
  | rdsw =>
    refine ⟨_, rfl, ?_⟩
    rw [statusWord, directBits_eq_of_and h]
    rfl
  | wrsw =>
    refine ⟨_, rfl, ?_⟩
    rw [statusWordFlags_eq_of_and h]
    rfl

end Sys2Proof.Machine
end

section
/-! Proofs for the statements of 30_encoding.md about the assembler (R54, R55): the words and data of its rows, the
numbers, and the operands of WRRES. -/

namespace Sys2Proof.Asm

open Sys2Proof.Machine (LegalWord legalWord_encode)

/-! ### The rows and the pseudo-instructions -/

theorem Stmt.driven_wrzc (v : Value) :
    (Stmt.wrzc v).driven = { instr := .wrres 0b0001#4 .byte, d0 := v.toWord } := by
  simp [Stmt.driven, Stmt.expand, drivenWrres, WrresFields.add, WrresFields.driven]

theorem Stmt.driven_wrps (v : Value) :
    (Stmt.wrps v).driven = { instr := .wrres 0b0010#4 .byte, d1 := v.toWord } := by
  simp [Stmt.driven, Stmt.expand, drivenWrres, WrresFields.add, WrresFields.driven]

theorem Stmt.driven_wrao (v : Value) :
    (Stmt.wrao v).driven = { instr := .wrres 0b0100#4 .byte, d2 := v.toWord } := by
  simp [Stmt.driven, Stmt.expand, drivenWrres, WrresFields.add, WrresFields.driven]

theorem Stmt.driven_ldres (r a : Value) (size : Size) :
    (Stmt.ldres r a size).driven =
      { instr := .wrres 0b1111#4 size, d0 := r.toWord, d1 := r.toWord, d2 := a.toWord } := by
  simp [Stmt.driven, Stmt.expand, drivenWrres, WrresFields.add, WrresFields.driven]

/-- Settles O54: each is well formed with its numbers, and drives what its expansion does. -/
theorem pseudoInstructionExpansions : Obligations.PseudoInstructionExpansions := by
  intro v w hv hw
  refine ⟨?_, ?_, ?_, rfl, rfl, fun size => ?_⟩
  · rw [assemble_of_wf (st := .wrzc v) hv, Stmt.driven_wrzc]
    rfl
  · rw [assemble_of_wf (st := .wrps v) hv, Stmt.driven_wrps]
    rfl
  · rw [assemble_of_wf (st := .wrao v) hv, Stmt.driven_wrao]
    rfl
  · have hwf : (Stmt.ldres v w size).wf = true := Bool.and_eq_true_iff.2 ⟨hv, hw⟩
    rw [assemble_of_wf hwf, Stmt.driven_ldres]
    cases size <;> rfl

/-- Settles O55: each row is evaluated with its number left open, and the word of every statement is a command's. -/
theorem assembledStatementsAreLegal : Obligations.AssembledStatementsAreLegal := by
  refine ⟨rfl, rfl, rfl, rfl, rfl, rfl, rfl, rfl, fun v hv => ?_, fun st hst => ?_⟩
  · exact ⟨assemble_of_wf (st := .par v) hv, assemble_of_wf (st := .ldfl v) hv, assemble_of_wf (st := .rdsw v) hv,
      assemble_of_wf (st := .wrsw v) hv⟩
  · exact ⟨_, assemble_of_wf hst, st.driven.ports_rst, legalWord_encode st.driven.instr⟩

/-! ### The numbers -/

theorem Value.wf_hex (n : Nat) : (Value.hex n).wf = true ↔ n < 2 ^ 32 := decide_eq_true_iff

theorem Value.wf_dec (z : Int) : (Value.dec z).wf = true ↔ -2 ^ 31 ≤ z ∧ z < 2 ^ 32 := decide_eq_true_iff

theorem Value.toNat_toWord_hex {n : Nat} (h : n < 2 ^ 32) : (Value.hex n).toWord.toNat = n :=
  BitVec.toNat_ofNat n 32 ▸ Nat.mod_eq_of_lt h

/-- A decimal that is not negative stands for what the same hexadecimal does. -/
theorem Value.toWord_dec_natCast (n : Nat) : (Value.dec n).toWord = (Value.hex n).toWord := BitVec.ofInt_natCast 32 n

theorem Value.toInt_toWord_dec {z : Int} (hlow : -2 ^ 31 ≤ z) (hneg : z < 0) : (Value.dec z).toWord.toInt = z := by
  rw [Value.toWord, BitVec.toInt_ofInt]
  exact Int.bmod_eq_of_le (by omega) (by omega)

theorem Value.toNat_toWord_dec_neg {z : Int} (hlow : -2 ^ 31 ≤ z) (hneg : z < 0) :
    ((Value.dec z).toWord.toNat : Int) = 2 ^ 32 + z := by
  rw [Value.toWord, BitVec.toNat_ofInt]
  omega

/-- Settles O56: the word of a number is the number modulo 2^32, and each range keeps it where it is read as stated. -/
theorem numbersStandForTheirValue : Obligations.NumbersStandForTheirValue := by
  refine ⟨fun n hn => ?_, fun n hn => ?_, fun z hlow hneg => ?_, fun n hn => ?_⟩
  · exact ⟨(Value.wf_hex n).2 hn, Value.toNat_toWord_hex hn⟩
  · rw [Value.wf_dec, Value.toWord_dec_natCast]
    exact ⟨by omega, Value.toNat_toWord_hex hn⟩
  · rw [Value.wf_dec]
    exact ⟨by omega, Value.toInt_toWord_dec hlow hneg, Value.toNat_toWord_dec_neg hlow hneg⟩
  · rw [← Bool.not_eq_true, ← Bool.not_eq_true, Value.wf_hex, Value.wf_dec]
    omega

/-! ### The operands of WRRES -/

theorem Stmt.wf_wrres (os : List WrresOperand) :
    (Stmt.wrres os).wf = true ↔ (os.map WrresOperand.name).Nodup ∧ ∀ o ∈ os, o.wf = true := by
  rw [Stmt.wf, Bool.and_eq_true, operandsDistinct_iff_nodup, List.all_eq_true]

theorem Stmt.wf_wrres_perm {os os' : List WrresOperand} (h : os.Perm os') :
    (Stmt.wrres os).wf = true ↔ (Stmt.wrres os').wf = true := by
  simp only [Stmt.wf_wrres, (h.map _).nodup_iff, h.mem_iff]

/-- Operands of different names are gathered in any order, since each sets an enable and a value of its own. -/
theorem foldl_add_perm {os os' : List WrresOperand} (h : os.Perm os') (hnames : (os.map WrresOperand.name).Nodup)
    (f : WrresFields) : os.foldl WrresFields.add f = os'.foldl WrresFields.add f := by
  refine h.foldl_eq' (fun a ha b hb g => ?_) f
  by_cases hab : a.name = b.name
  · rw [List.inj_on_of_nodup_map hnames ha hb hab]
  · exact g.add_comm hab

/-- Settles O58: a permutation keeps the checks of R54, and the fields gathered. -/
theorem wrresOperandsInAnyOrder : Obligations.WrresOperandsInAnyOrder := by
  intro os os' hperm hwf
  obtain ⟨hnames, -⟩ := (Stmt.wf_wrres os).1 hwf
  have hdriven : drivenWrres os = drivenWrres os' := congrArg WrresFields.driven (foldl_add_perm hperm hnames {})
  rw [assemble_of_wf hwf, assemble_of_wf ((Stmt.wf_wrres_perm hperm).1 hwf)]
  exact congrArg (some ·.ports) hdriven

/-- The enable of a name and the value gathered for it. -/
def WrresFields.read (f : WrresFields) : OperandName → Bool × (Word ⊕ Size)
  | .zc => (f.we.getLsbD 0, .inl f.zc)
  | .ps => (f.we.getLsbD 1, .inl f.ps)
  | .ao => (f.we.getLsbD 2, .inl f.ao)
  | .sz => (f.we.getLsbD 3, .inr f.szv)

/-- The value an operand names. -/
def WrresOperand.value : WrresOperand → Word ⊕ Size
  | .zc v => .inl v.toWord
  | .ps v => .inl v.toWord
  | .ao v => .inl v.toWord
  | .sz size => .inr size

theorem WrresFields.read_add_same (f : WrresFields) (o : WrresOperand) : (f.add o).read o.name = (true, o.value) := by
  cases o <;> simp [WrresFields.add, WrresFields.read, WrresOperand.name, WrresOperand.value]

theorem WrresFields.read_add_of_ne (f : WrresFields) {o : WrresOperand} {n : OperandName} (h : o.name ≠ n) :
    (f.add o).read n = f.read n := by
  revert h
  cases o <;> cases n <;> simp [WrresFields.add, WrresFields.read, WrresOperand.name]

/-- Operands of other names leave the enable and the value of a name. -/
theorem WrresFields.read_foldl_of_not_named {os : List WrresOperand} {n : OperandName} (h : ∀ o ∈ os, o.name ≠ n)
    (f : WrresFields) : (os.foldl WrresFields.add f).read n = f.read n := by
  induction os generalizing f with
  | nil => rfl
  | cons o os ih =>
    obtain ⟨ho, hos⟩ := List.forall_mem_cons.1 h
    rw [List.foldl_cons, ih hos, f.read_add_of_ne ho]

/-- An operand among others of different names sets its enable and its value. -/
theorem WrresFields.read_foldl_of_mem {os : List WrresOperand} (hnames : (os.map WrresOperand.name).Nodup)
    {o : WrresOperand} (ho : o ∈ os) (f : WrresFields) :
    (os.foldl WrresFields.add f).read o.name = (true, o.value) := by
  induction os generalizing f with
  | nil => contradiction
  | cons a os ih =>
    obtain ⟨hfresh, hnames⟩ := List.nodup_cons.1 hnames
    rw [List.foldl_cons]
    obtain rfl | ho := List.mem_cons.1 ho
    · have hother : ∀ b ∈ os, b.name ≠ o.name := fun b hb hname => hfresh (List.mem_map.2 ⟨b, hb, hname⟩)
      rw [WrresFields.read_foldl_of_not_named hother, f.read_add_same]
    · exact ih hnames ho (f.add a)

/-- Settles O59: the fields of the decoded word and the data are those gathered, read name by name. -/
theorem wrresOperandsSetEnablesAndValues : Obligations.WrresOperandsSetEnablesAndValues := by
  intro os hwf
  obtain ⟨hnames, -⟩ := (Stmt.wf_wrres os).1 hwf
  have hnamed := fun o ho => WrresFields.read_foldl_of_mem (o := o) hnames ho {}
  have hother := fun n h => WrresFields.read_foldl_of_not_named (os := os) (n := n) h {}
  refine ⟨(os.foldl WrresFields.add {}).we, (os.foldl WrresFields.add {}).szv, (drivenWrres os).ports,
    assemble_of_wf hwf, decode_encode _, ?_, ?_, ?_, ?_, fun h => ?_, fun h => ?_, fun h => ?_, fun h => ?_⟩
  · exact fun v hv => (Prod.mk.inj (hnamed (.zc v) hv)).imp_right Sum.inl.inj
  · exact fun v hv => (Prod.mk.inj (hnamed (.ps v) hv)).imp_right Sum.inl.inj
  · exact fun v hv => (Prod.mk.inj (hnamed (.ao v) hv)).imp_right Sum.inl.inj
  · exact fun z hz => (Prod.mk.inj (hnamed (.sz z) hz)).imp_right Sum.inr.inj
  · have hzc : ∀ o ∈ os, o.name ≠ .zc := by rintro (_ | _ | _ | _) ho ⟨⟩; exact h _ ho
    exact (Prod.mk.inj (hother .zc hzc)).imp_right Sum.inl.inj
  · have hps : ∀ o ∈ os, o.name ≠ .ps := by rintro (_ | _ | _ | _) ho ⟨⟩; exact h _ ho
    exact (Prod.mk.inj (hother .ps hps)).imp_right Sum.inl.inj
  · have hao : ∀ o ∈ os, o.name ≠ .ao := by rintro (_ | _ | _ | _) ho ⟨⟩; exact h _ ho
    exact (Prod.mk.inj (hother .ao hao)).imp_right Sum.inl.inj
  · have hsz : ∀ o ∈ os, o.name ≠ .sz := by rintro (_ | _ | _ | _) ho ⟨⟩; exact h _ ho
    exact (Prod.mk.inj (hother .sz hsz)).1

end Sys2Proof.Asm
end

section
/-! Proofs for the statements of 40_parity.md: the invariant along every step, the contents of the Parity Table, and
PAR. -/

namespace Sys2Proof.Machine

/-! ### The invariant along every step (R62, R49, R50) -/

theorem toNat_zext32_lt (b : Bool) : (zext32 b).toNat < 2 ^ 16 := by
  cases b <;> decide

/-- The highest flag of the packed word is OF at bit 11 (R73). -/
theorem toNat_packed_lt (f : Flags) : f.packed.toNat < 2 ^ 16 := by
  refine Nat.lt_pow_two_of_testBit _ fun k hk => ?_
  rw [BitVec.testBit_toNat]
  by_cases hk32 : k < 32
  · rw [getLsbD_packed f k hk32]
    simp (disch := omega) only [decide_eq_false, Bool.false_and, Bool.or_false]
  · exact BitVec.getLsbD_of_ge _ _ (Nat.le_of_not_lt hk32)

theorem toNat_setWidth_lt (w : BitVec 16) : (w.setWidth 32).toNat < 2 ^ 16 := by
  rw [BitVec.toNat_setWidth_of_le (by decide)]
  exact w.isLt

/-- A command's result has no bit above bit 15 (R49): it is 0, a flag word, one bit or a status word. -/
theorem exec_next_q_lt (i : Instr) (s t : State) (h : exec i s = .next t) : t.q.toNat < 2 ^ 16 := by
  cases i with
  | nop | wrres | ldfl | wrsw => exact (complete_eq_next _ _ _).1 h ▸ Nat.two_pow_pos 16
  | rdfl => exact (complete_eq_next _ _ _).1 h ▸ toNat_packed_lt s.flags
  | rdcf | rdpf | rdaf | rdzf | rdsf | rdof | par => exact (complete_eq_next _ _ _).1 h ▸ toNat_zext32_lt _
  | rdsw => exact (complete_eq_next _ _ _).1 h ▸ toNat_setWidth_lt _

/-- Every step drives legal outputs, whatever the outputs before it (R15). -/
theorem step_outputsLegal {s t : State} (h : step s = .next t) : t.OutputsLegal := by
  obtain ⟨-, rfl⟩ | ⟨-, i, -, hexec⟩ | ⟨-, r, -, rfl⟩ := step_cases s t h
  · exact ⟨Nat.two_pow_pos 16, fun _ => rfl⟩
  · obtain ⟨-, -, -, -, -, hill⟩ := exec_next_keeps i s.present t hexec
    exact ⟨exec_next_q_lt i s.present t hexec, fun hill' => absurd (hill ▸ hill') Bool.false_ne_true⟩
  · exact ⟨Nat.two_pow_pos 16, fun _ => rfl⟩

/-- Settles O16: no step writes PARITY, and every step drives both outputs afresh. -/
theorem everyStepKeepsTheInvariant : Obligations.EveryStepKeepsTheInvariant := by
  intro s t hinv h
  obtain ⟨-, hparity⟩ := noStepWritesVariantOrParity s t h
  exact ⟨hparity.trans hinv.rom, step_outputsLegal h⟩

/-! ### The contents of the Parity Table (R59, R60) -/

/-- Every index is looked up and its bits counted, as R60 derives the contents. -/
theorem parityRom_getLsbD : ∀ v : BitVec 8, parityRom.getLsbD v.toNat = decide (popcount v % 2 = 0) := by decide

theorem parityRom_row : ∀ r : BitVec 4, parityRom.extractLsb' (16 * r.toNat) 16 =
    if popcount (r.setWidth 8) % 2 = 0 then 0x9669#16 else 0x6996#16 := by decide

/-- The set bits of a byte are those of its two nibbles. -/
theorem popcount_append (r c : BitVec 4) : popcount (r ++ c) = popcount (r.setWidth 8) + popcount (c.setWidth 8) := by
  have hbit (k : Nat) : (r ++ c : BitVec 8).getLsbD k = if k < 4 then c.getLsbD k else r.getLsbD (k - 4) :=
    BitVec.getLsbD_append
  simp only [popcount, hbit]
  simp [List.range_succ, List.countP_cons]
  omega

theorem toNat_append_nibbles (r c : BitVec 4) : (r ++ c).toNat = 16 * r.toNat + c.toNat := by
  rw [BitVec.toNat_append, ← Nat.shiftLeft_add_eq_or_of_lt c.isLt, Nat.shiftLeft_eq, Nat.mul_comm]

theorem parityRom_nibble (r : BitVec 4) : parityRom.getLsbD r.toNat = decide (popcount (r.setWidth 8) % 2 = 0) := by
  rw [← parityRom_getLsbD, BitVec.toNat_setWidth_of_le (by decide)]

/-- A sum of two popcounts is even exactly when both are even or both odd. -/
theorem parityRom_xnor (r c : BitVec 4) :
    parityRom.getLsbD (16 * r.toNat + c.toNat) = (parityRom.getLsbD r.toNat == parityRom.getLsbD c.toNat) := by
  rw [← toNat_append_nibbles, parityRom_getLsbD, popcount_append, parityRom_nibble, parityRom_nibble, Bool.eq_iff_iff]
  simp only [decide_eq_true_eq, beq_iff_eq, decide_eq_decide]
  omega

/-- A row of either kind holds 8 ones. -/
theorem parityRom_row_count (r : BitVec 4) :
    (List.range 16).countP (fun c => parityRom.getLsbD (16 * r.toNat + c)) = 8 := by
  have hcolumn : ∀ c ∈ List.range 16,
      parityRom.getLsbD (16 * r.toNat + c) = (parityRom.extractLsb' (16 * r.toNat) 16).getLsbD c := fun c hc => by
    simp [List.mem_range.1 hc]
  rw [List.countP_congr fun c hc => by rw [hcolumn c hc], parityRom_row]
  split <;> decide

/-- The first `n` rows hold `8n` ones. -/
theorem parityRom_rows_count (n : Nat) (hn : n ≤ 16) : (List.range (16 * n)).countP parityRom.getLsbD = 8 * n := by
  induction n with
  | zero => rfl
  | succ n ih =>
    have hrow := parityRom_row_count (BitVec.ofNatLT n hn)
    rw [Nat.mul_succ, List.range_add, List.countP_append, List.countP_map, ih (Nat.le_of_lt hn), Nat.mul_succ]
    exact congrArg (8 * n + ·) hrow

/-- Settles O21: the entries and rows by evaluation, the law of the two nibbles by adding their popcounts, and the
count row by row. -/
theorem parityTableContents : Obligations.ParityTableContents :=
  ⟨parityRom_getLsbD, parityRom_row, parityRom_xnor, parityRom_rows_count 16 le_rfl⟩

/-! ### PAR (R61) -/

theorem exec_par (s : State) :
    exec .par s = complete (if s.parity.getLsbD (s.ports.d0.toNat % 256) then 1#32 else 0#32) s := by
  rw [← zext32_eq_ite, ← parityFlag_eq]
  rfl

/-- Settles O22: with R60's table the entry is the popcount's (R59), and RDPF looks up RPS in the same table (R68). -/
theorem parLooksUpParity : Obligations.ParLooksUpParity := by
  refine ⟨decode_encode .par, exec_par, fun s hrom => ?_, fun s hindex => ?_⟩
  · have hentry : s.parity.getLsbD (s.ports.d0.toNat % 256) = decide (popcount (s.ports.d0.setWidth 8) % 2 = 0) := by
      rw [hrom, ← parityRom_getLsbD, BitVec.toNat_setWidth]
    rw [exec_par, hentry]
    simp only [decide_eq_true_eq]
    rfl
  · rw [exec_par, hindex, ← parityFlag_eq, ← zext32_eq_ite]
    rfl

end Sys2Proof.Machine
end

section
/-! Proofs for the statements of 41_result_writes.md about NOP and WRRES themselves, with the two laws of
70_reset_and_hazards.md about a write of one register (R108, R109). -/

namespace Sys2Proof.Machine

/-! ### The formulas at either width (R67 to R72) -/

/-- A function of a value chosen by the width is the function's value at either width. -/
theorem apply_bySize {α β : Type} (f : α → β) (sz : Size) (atByte atWord : α) :
    f (bySize sz atByte atWord) = bySize sz (f atByte) (f atWord) := by
  cases sz <;> rfl

theorem carryFlag_eq (rzc : Word) (sz : Size) : carryFlag rzc sz = rzc.getLsbD (bySize sz 8 16) := by
  cases sz with
  | byte => exact carryFlag_byte rzc
  | word => exact carryFlag_word rzc

theorem zeroFlag_iff (rzc : Word) (sz : Size) :
    zeroFlag rzc sz = true ↔ rzc.toNat % 2 ^ bySize sz 8 16 = 0 := by
  cases sz with
  | byte => exact zeroFlag_byte rzc
  | word => exact zeroFlag_word rzc

theorem signFlag_eq (rps : Word) (sz : Size) : signFlag rps sz = rps.getLsbD (bySize sz 7 15) := by
  cases sz with
  | byte => exact signFlag_byte rps
  | word => exact signFlag_word rps

theorem overflowFlag_eq (rps rao : Word) (sz : Size) :
    overflowFlag rps rao sz =
      (rps.getLsbD (bySize sz 7 15) ^^ rao.getLsbD (bySize sz 7 15) ^^ rps.getLsbD (bySize sz 8 16)) := by
  cases sz with
  | byte => exact overflowFlag_byte rps rao
  | word => exact overflowFlag_word rps rao

/-- The six flags of a state, bit by bit. -/
theorem State.flags_eq_bits (s : State) :
    s.flags =
      { cf := bySize s.sz (s.rzc.getLsbD 8) (s.rzc.getLsbD 16)
        pf := s.parity.getLsbD (s.rps.toNat % 256)
        af := s.rps.getLsbD 4 ^^ s.rao.getLsbD 4
        zf := decide (s.rzc.toNat % bySize s.sz 256 65536 = 0)
        sf := bySize s.sz (s.rps.getLsbD 7) (s.rps.getLsbD 15)
        of := bySize s.sz (s.rps.getLsbD 7 ^^ s.rao.getLsbD 7 ^^ s.rps.getLsbD 8)
          (s.rps.getLsbD 15 ^^ s.rao.getLsbD 15 ^^ s.rps.getLsbD 16) } := by
  have hzf : zeroFlag s.rzc s.sz = decide (s.rzc.toNat % bySize s.sz 256 65536 = 0) := by
    rw [Bool.eq_iff_iff, zeroFlag_iff, decide_eq_true_iff, apply_bySize (2 ^ ·)]
    exact Iff.rfl
  rw [State.flags, carryFlag_eq, parityFlag_eq, auxFlag_eq, hzf, signFlag_eq, overflowFlag_eq]
  cases s.sz <;> rfl

/-! ### NOP and WRRES (R63, R64) -/

/-- The flags after WRRES, each of the registers it writes or leaves. -/
theorem State.flags_writeResults (s : State) (we : BitVec 4) (szv : Size) :
    (s.writeResults we szv).flags =
      { cf := carryFlag (if we.getLsbD 0 then s.ports.d0 else s.rzc) (if we.getLsbD 3 then szv else s.sz)
        pf := parityFlag s.parity (if we.getLsbD 1 then s.ports.d1 else s.rps)
        af := auxFlag (if we.getLsbD 1 then s.ports.d1 else s.rps) (if we.getLsbD 2 then s.ports.d2 else s.rao)
        zf := zeroFlag (if we.getLsbD 0 then s.ports.d0 else s.rzc) (if we.getLsbD 3 then szv else s.sz)
        sf := signFlag (if we.getLsbD 1 then s.ports.d1 else s.rps) (if we.getLsbD 3 then szv else s.sz)
        of := overflowFlag (if we.getLsbD 1 then s.ports.d1 else s.rps)
          (if we.getLsbD 2 then s.ports.d2 else s.rao) (if we.getLsbD 3 then szv else s.sz) } := rfl

/-- The row of WRRES fixes `res` and `op` and leaves `we` and `szv` (R57). -/
theorem decode_of_wrres_row {cmd : Cmd} (h : cmd &&& 0xFE0F#16 = 0x0001#16) :
    decode cmd = .ok (.wrres (weField cmd) (.ofBit (szvField cmd))) := by
  have hres : resField cmd = resField (cmd &&& 0xFE0F#16) := by
    rw [resField, resField, BitVec.extractLsb'_and]
    exact BitVec.and_allOnes.symm
  have hop : opField cmd = opField (cmd &&& 0xFE0F#16) := by
    rw [opField, opField, BitVec.extractLsb'_and]
    exact BitVec.and_allOnes.symm
  rw [h] at hres hop
  exact decode_of_opField_one hres hop

/-- Settles O23: NOP completes on the state it began with. -/
theorem nopDoesNothing : Obligations.NopDoesNothing :=
  ⟨decode_encode .nop, fun _ => rfl⟩

/-- Settles O24: a flag reads the registers of its formula alone, and those not enabled stay. -/
theorem wrresWritesTheEnabledRegisters : Obligations.WrresWritesTheEnabledRegisters := by
  refine ⟨fun cmd h => decode_of_wrres_row h, fun we szv s => rfl, fun we szv s t h => ?_⟩
  obtain rfl := (complete_eq_next _ _ _).1 h
  simp only [State.flags_output, State.flags_writeResults]
  refine ⟨fun h0 h3 => ?_, fun h1 => ?_, fun h1 h2 => ?_, fun h1 h3 => ?_, fun h1 h2 h3 => ?_, ?_⟩
  · rw [h0, h3]
    exact ⟨rfl, rfl⟩
  · rw [h1]
    rfl
  · rw [h1, h2]
    rfl
  · rw [h1, h3]
    rfl
  · rw [h1, h2, h3]
    rfl
  · rintro rfl
    exact congrArg (complete 0#32) (s.writeResults_none szv)

/-! ### A write of one register (R108, R109) -/

/-- Settles O29: each formula reads the register just written and the others as they were. -/
theorem separateWritesMixFlags : Obligations.SeparateWritesMixFlags := by
  refine fun s szv => ⟨⟨_, rfl, ?_⟩, ⟨_, rfl, ?_⟩⟩
  · rw [State.flags_eq_bits, s.flags_eq_bits]
    rfl
  · rw [State.flags_eq_bits, s.flags_eq_bits]
    rfl

/-- Settles O30: the four flags that read SZ are the formulas at `szv`, and PF and AF do not read it. -/
theorem widthChangeReinterpretsRegisters : Obligations.WidthChangeReinterpretsRegisters := by
  refine fun s szv => ⟨_, rfl, rfl, ?_⟩
  rw [State.flags_eq_bits, s.flags_eq_bits]
  exact ⟨rfl, rfl, rfl, rfl, rfl, rfl⟩

end Sys2Proof.Machine
end

section
/-! Proofs for the statements of 41_result_writes.md about the register shapes of R66: an addition, a subtraction and a
logical result. -/

namespace Sys2Proof.Machine

/-! ### Carries and borrows into each bit -/

/-- The sum XOR both operands is the vector of carries into each bit. -/
theorem getLsbD_add_xor_operands (x y : Word) {k : Nat} (hk : k < 32) :
    ((x + y).getLsbD k ^^ (x ^^^ y).getLsbD k) = decide (2 ^ k ≤ x.toNat % 2 ^ k + y.toNat % 2 ^ k) := by
  have hcarry : BitVec.carry k x y false = decide (2 ^ k ≤ x.toNat % 2 ^ k + y.toNat % 2 ^ k) := rfl
  rw [BitVec.getLsbD_add hk, BitVec.getLsbD_xor, hcarry]
  cases x.getLsbD k <;> cases y.getLsbD k <;> simp

/-- Taking `y` away from `x` and adding it back carries into bit `k` exactly where the subtraction borrows from it. -/
theorem carry_sub_iff_borrow (x y : Word) {k : Nat} (hk : k < 32) :
    2 ^ k ≤ (x - y).toNat % 2 ^ k + y.toNat % 2 ^ k ↔ x.toNat % 2 ^ k < y.toNat % 2 ^ k := by
  have hx : ((x - y).toNat % 2 ^ k + y.toNat % 2 ^ k) % 2 ^ k = x.toNat % 2 ^ k := by
    have hdvd : 2 ^ k ∣ 2 ^ 32 := Nat.pow_dvd_pow 2 (Nat.le_of_lt hk)
    rw [← Nat.add_mod, ← Nat.mod_mod_of_dvd _ hdvd, ← BitVec.toNat_add, BitVec.sub_add_cancel]
  have hd := Nat.mod_lt (x - y).toNat (Nat.two_pow_pos k)
  have hy := Nat.mod_lt y.toNat (Nat.two_pow_pos k)
  rw [← hx]
  constructor
  · intro hle
    rw [Nat.mod_eq_sub_mod hle, Nat.mod_eq_of_lt (by omega)]
    omega
  · intro hlt
    by_contra hnot
    rw [Nat.mod_eq_of_lt (by omega)] at hlt
    omega

/-- The difference XOR both operands is the vector of borrows from each bit. -/
theorem getLsbD_sub_xor_operands (x y : Word) {k : Nat} (hk : k < 32) :
    ((x - y).getLsbD k ^^ (x ^^^ y).getLsbD k) = decide (x.toNat % 2 ^ k < y.toNat % 2 ^ k) := by
  have hcarry := getLsbD_add_xor_operands (x - y) y hk
  simp only [BitVec.sub_add_cancel, BitVec.getLsbD_xor, carry_sub_iff_borrow x y hk] at hcarry
  rw [← hcarry, BitVec.getLsbD_xor]
  cases x.getLsbD k <;> cases y.getLsbD k <;> cases (x - y).getLsbD k <;> rfl

/-! ### The formulas on a sum and on a difference of operands of the width -/

theorem carryFlag_eq_xor_rao (v : Word) {rao : Word} {sz : Size} (hrao : rao.getLsbD (bySize sz 8 16) = false) :
    carryFlag v sz = (v.getLsbD (bySize sz 8 16) ^^ rao.getLsbD (bySize sz 8 16)) := by
  rw [carryFlag_eq, hrao, Bool.xor_false]

/-- With no bit of RAO above the width, OF is the carry into the sign bit XOR the carry out of it. -/
theorem overflowFlag_eq_xor_rao (v : Word) {rao : Word} {sz : Size} (hrao : rao.getLsbD (bySize sz 8 16) = false) :
    overflowFlag v rao sz =
      ((v.getLsbD (bySize sz 7 15) ^^ rao.getLsbD (bySize sz 7 15)) ^^
        (v.getLsbD (bySize sz 8 16) ^^ rao.getLsbD (bySize sz 8 16))) := by
  rw [overflowFlag_eq, hrao, Bool.xor_false]

theorem parityFlag_parityRom (v : Word) :
    parityFlag parityRom v = true ↔ popcount (v.setWidth 8) % 2 = 0 := by
  have hentry : parityRom.getLsbD (v.toNat % 256) = decide (popcount (v.setWidth 8) % 2 = 0) := by
    rw [← parityRom_getLsbD, BitVec.toNat_setWidth]
  rw [parityFlag_eq, hentry, decide_eq_true_iff]

theorem carryBit_lt (sz : Size) : bySize sz 8 16 < 32 := by cases sz <;> decide

theorem signBit_lt (sz : Size) : bySize sz 7 15 < 32 := by cases sz <;> decide

theorem auxFlag_add (x y : Word) :
    auxFlag (x + y) (x ^^^ y) = true ↔ 16 ≤ x.toNat % 16 + y.toNat % 16 := by
  rw [auxFlag_eq, getLsbD_add_xor_operands x y (by decide), decide_eq_true_iff]
  exact Iff.rfl

theorem auxFlag_sub (x y : Word) : auxFlag (x - y) (x ^^^ y) = true ↔ x.toNat % 16 < y.toNat % 16 := by
  rw [auxFlag_eq, getLsbD_sub_xor_operands x y (by decide), decide_eq_true_iff]
  exact Iff.rfl

section Operands

variable {sz : Size} {x y : Word} (hx : x.toNat < 2 ^ bySize sz 8 16) (hy : y.toNat < 2 ^ bySize sz 8 16)
include hx hy

theorem getLsbD_xor_operands_above : (x ^^^ y).getLsbD (bySize sz 8 16) = false := by
  rw [BitVec.getLsbD_xor, ← BitVec.testBit_toNat, ← BitVec.testBit_toNat, Nat.testBit_lt_two_pow hx,
    Nat.testBit_lt_two_pow hy]
  rfl

theorem carryFlag_add : carryFlag (x + y) sz = true ↔ 2 ^ bySize sz 8 16 ≤ x.toNat + y.toNat := by
  rw [carryFlag_eq_xor_rao _ (getLsbD_xor_operands_above hx hy), getLsbD_add_xor_operands x y (carryBit_lt sz),
    decide_eq_true_iff, Nat.mod_eq_of_lt hx, Nat.mod_eq_of_lt hy]

theorem carryFlag_sub : carryFlag (x - y) sz = true ↔ x.toNat < y.toNat := by
  rw [carryFlag_eq_xor_rao _ (getLsbD_xor_operands_above hx hy), getLsbD_sub_xor_operands x y (carryBit_lt sz),
    decide_eq_true_iff, Nat.mod_eq_of_lt hx, Nat.mod_eq_of_lt hy]

/-- A sum leaves the signed range exactly where the carries into and out of the sign bit differ. -/
theorem overflowFlag_add :
    overflowFlag (x + y) (x ^^^ y) sz = true ↔ ¬inSignedRange (bySize sz 8 16)
      (signedValue (bySize sz 8 16) x.toNat + signedValue (bySize sz 8 16) y.toNat) := by
  rw [overflowFlag_eq_xor_rao _ (getLsbD_xor_operands_above hx hy), getLsbD_add_xor_operands x y (carryBit_lt sz),
    getLsbD_add_xor_operands x y (signBit_lt sz), bne_iff_ne, ne_eq, decide_eq_decide, inSignedRange, signedValue,
    signedValue]
  cases sz <;> simp only [bySize] at * <;> omega

/-- A difference leaves the signed range exactly where the borrows into and out of the sign bit differ. -/
theorem overflowFlag_sub :
    overflowFlag (x - y) (x ^^^ y) sz = true ↔ ¬inSignedRange (bySize sz 8 16)
      (signedValue (bySize sz 8 16) x.toNat - signedValue (bySize sz 8 16) y.toNat) := by
  rw [overflowFlag_eq_xor_rao _ (getLsbD_xor_operands_above hx hy), getLsbD_sub_xor_operands x y (carryBit_lt sz),
    getLsbD_sub_xor_operands x y (signBit_lt sz), bne_iff_ne, ne_eq, decide_eq_decide, inSignedRange, signedValue,
    signedValue]
  cases sz <;> simp only [bySize] at * <;> omega

end Operands

/-! ### The flags after a full WRRES, and an addition (R66 a) -/

/-- The flags after WRRES of all four registers are those of the data alone. -/
theorem State.flags_writeResults_all (s : State) (szv : Size) :
    (s.writeResults 0b1111#4 szv).flags =
      { cf := carryFlag s.ports.d0 szv
        pf := parityFlag s.parity s.ports.d1
        af := auxFlag s.ports.d1 s.ports.d2
        zf := zeroFlag s.ports.d0 szv
        sf := signFlag s.ports.d1 szv
        of := overflowFlag s.ports.d1 s.ports.d2 szv } := rfl

/-- A number of the width is the value of its register. -/
theorem toNat_ofNat_operand {sz : Size} {a : Nat} (ha : a < 2 ^ bySize sz 8 16) :
    (BitVec.ofNat 32 a).toNat = a :=
  BitVec.toNat_ofNat a 32 ▸ Nat.mod_eq_of_lt (ha.trans (Nat.pow_lt_pow_right (by decide) (carryBit_lt sz)))

theorem zeroFlag_ofNat (n : Nat) (sz : Size) :
    zeroFlag (BitVec.ofNat 32 n) sz = true ↔ n % 2 ^ bySize sz 8 16 = 0 := by
  rw [zeroFlag_iff, BitVec.toNat_ofNat, Nat.mod_mod_of_dvd _ (Nat.pow_dvd_pow 2 (Nat.le_of_lt (carryBit_lt sz)))]

theorem signFlag_ofNat (n : Nat) (sz : Size) : signFlag (BitVec.ofNat 32 n) sz = n.testBit (bySize sz 7 15) := by
  rw [signFlag_eq, BitVec.getLsbD_ofNat, decide_eq_true (signBit_lt sz), Bool.true_and]

theorem parityFlag_ofNat (n : Nat) :
    parityFlag parityRom (BitVec.ofNat 32 n) = true ↔ popcount (BitVec.ofNat 8 n) % 2 = 0 := by
  rw [parityFlag_parityRom, BitVec.setWidth_ofNat_of_le (by decide)]

/-- Settles O25: the carries into bits 4 and n and into the sign bit are those of the sum, and the rest is read off the
sum itself. -/
theorem additionShapeGivesAdditionFlags : Obligations.AdditionShapeGivesAdditionFlags := by
  intro s sz a b hrom ha hb hd0 hd1 hd2
  refine ⟨_, rfl, ?_⟩
  have hna := toNat_ofNat_operand ha
  have hnb := toNat_ofNat_operand hb
  have hcf := carryFlag_add (hna.symm ▸ ha) (hnb.symm ▸ hb)
  have haf := auxFlag_add (BitVec.ofNat 32 a) (BitVec.ofNat 32 b)
  have hof := overflowFlag_add (hna.symm ▸ ha) (hnb.symm ▸ hb)
  rw [hna, hnb, ← BitVec.ofNat_add] at hcf haf hof
  rw [State.flags_output, State.flags_writeResults_all, hrom, hd0, hd1, hd2]
  exact ⟨hcf, zeroFlag_ofNat _ _, by rw [signFlag_ofNat], parityFlag_ofNat _, haf, hof⟩

/-! ### A subtraction (R66 b) -/

/-- The pattern of a difference is that of the difference made positive by a multiple of 2^32. -/
theorem ofInt_sub_natCast {w : Nat} (hw : w ≤ 32) (a : Nat) {b : Nat} (hb : b ≤ 2 ^ 32) :
    BitVec.ofInt w ((a : Int) - b) = BitVec.ofNat w (a + 2 ^ 32 - b) := by
  have hcast : ((a + 2 ^ 32 - b : Nat) : Int) = (a : Int) - b + (2 ^ 32 : Nat) := by omega
  have hzero : BitVec.ofNat w (2 ^ 32) = 0#w :=
    BitVec.eq_of_toNat_eq (by simp [Nat.mod_eq_zero_of_dvd (Nat.pow_dvd_pow 2 hw)])
  rw [← BitVec.ofInt_natCast, hcast, BitVec.ofInt_add, BitVec.ofInt_natCast, hzero, BitVec.add_zero]

theorem ofInt_sub_eq_sub (a b : Nat) :
    BitVec.ofInt 32 ((a : Int) - b) = BitVec.ofNat 32 a - BitVec.ofNat 32 b := by
  rw [BitVec.eq_sub_iff_add_eq, ← BitVec.ofInt_natCast, ← BitVec.ofInt_add, Int.sub_add_cancel,
    BitVec.ofInt_natCast]

/-- The low n bits of the pattern are the n-bit difference. -/
theorem difference_mod_two_pow {sz : Size} (a : Nat) {b : Nat} (hb : b < 2 ^ bySize sz 8 16) :
    (a + 2 ^ 32 - b) % 2 ^ bySize sz 8 16 = (a + 2 ^ bySize sz 8 16 - b) % 2 ^ bySize sz 8 16 := by
  cases sz <;> simp only [bySize] at * <;> omega

theorem difference_mod_eq_zero_iff {sz : Size} {a b : Nat} (ha : a < 2 ^ bySize sz 8 16)
    (hb : b < 2 ^ bySize sz 8 16) : (a + 2 ^ bySize sz 8 16 - b) % 2 ^ bySize sz 8 16 = 0 ↔ a = b := by
  cases sz <;> simp only [bySize] at * <;> omega

theorem testBit_sign_mod (n : Nat) (sz : Size) :
    (n % 2 ^ bySize sz 8 16).testBit (bySize sz 7 15) = n.testBit (bySize sz 7 15) := by
  have hlt : bySize sz 7 15 < bySize sz 8 16 := by cases sz <;> decide
  rw [Nat.testBit_mod_two_pow, decide_eq_true hlt, Bool.true_and]

/-- Settles O26: the borrows into bits 4 and n and into the sign bit are those of the difference, and the rest is read
off its pattern. -/
theorem subtractionShapeGivesSubtractionFlags : Obligations.SubtractionShapeGivesSubtractionFlags := by
  intro s sz a b hrom ha hb hd0 hd1 hd2
  refine ⟨_, rfl, ?_⟩
  have hna := toNat_ofNat_operand ha
  have hnb := toNat_ofNat_operand hb
  have hb32 : b ≤ 2 ^ 32 := hnb ▸ Nat.le_of_lt (BitVec.isLt _)
  have hcf := carryFlag_sub (hna.symm ▸ ha) (hnb.symm ▸ hb)
  have haf := auxFlag_sub (BitVec.ofNat 32 a) (BitVec.ofNat 32 b)
  have hof := overflowFlag_sub (hna.symm ▸ ha) (hnb.symm ▸ hb)
  rw [hna, hnb, ← ofInt_sub_eq_sub, ofInt_sub_natCast le_rfl a hb32] at hcf haf hof
  rw [ofInt_sub_natCast le_rfl a hb32] at hd0 hd1
  rw [State.flags_output, State.flags_writeResults_all, hrom, hd0, hd1, hd2]
  refine ⟨hcf, ?_, ?_, ?_, haf, hof⟩
  · rw [zeroFlag_ofNat, difference_mod_two_pow a hb, difference_mod_eq_zero_iff ha hb]
  · rw [signFlag_ofNat, ← testBit_sign_mod, difference_mod_two_pow a hb]
  · rw [parityFlag_ofNat, ofInt_sub_natCast (by decide) a hb32]

/-! ### A logical result (R66 c) -/

theorem inSignedRange_signedValue {sz : Size} {r : Nat} (hr : r < 2 ^ bySize sz 8 16) :
    inSignedRange (bySize sz 8 16) (signedValue (bySize sz 8 16) r) := by
  rw [inSignedRange, signedValue]
  cases sz <;> simp only [bySize] at * <;> omega

theorem testBit_sign_iff {sz : Size} {r : Nat} (hr : r < 2 ^ bySize sz 8 16) :
    r.testBit (bySize sz 7 15) = true ↔ 2 ^ bySize sz 7 15 ≤ r := by
  have hsucc : bySize sz 8 16 = bySize sz 7 15 + 1 := by cases sz <;> rfl
  refine ⟨Nat.ge_two_pow_of_testBit, fun hle => ?_⟩
  exact Nat.testBit_of_two_pow_le_and_two_pow_add_one_gt hle (hsucc ▸ hr)

/-- Settles O27: a logical result has the shape of its addition to 0, in which nothing carries. -/
theorem logicalShapeGivesLogicalFlags : Obligations.LogicalShapeGivesLogicalFlags := by
  intro s sz r hrom hr hd0 hd1 hd2
  have hxor : BitVec.ofNat 32 r = BitVec.ofNat 32 r ^^^ BitVec.ofNat 32 0 := BitVec.xor_zero.symm
  obtain ⟨t, ht, hcf, hzf, hsf, hpf, haf, hof⟩ :=
    additionShapeGivesAdditionFlags s sz r 0 hrom hr (Nat.two_pow_pos _) hd0 hd1 (hd2.trans hxor)
  have hzero : signedValue (bySize sz 8 16) 0 = 0 := if_pos (Nat.two_pow_pos _)
  rw [Nat.add_zero] at hcf hzf hsf hpf
  rw [hzero, Int.add_zero] at hof
  refine ⟨t, ht, ?_, ?_, ?_, ?_, ?_, hpf⟩
  · rw [← Bool.not_eq_true, hcf]
    exact Nat.not_le_of_lt hr
  · rw [← Bool.not_eq_true, haf]
    omega
  · rw [← Bool.not_eq_true, hof]
    exact not_not_intro (inSignedRange_signedValue hr)
  · rw [hzf, Nat.mod_eq_of_lt hr]
  · rw [hsf, testBit_sign_iff hr]

end Sys2Proof.Machine
end

section
/-! Proofs for the boot sequences of 70_reset_and_hazards.md section 2 (R106), and the law they rest on: seeded flags
read back as seeded (R78, R79). -/

namespace Sys2Proof.Machine

/-! ### The seeded contents bit by bit, and the formulas on them (R78) -/

theorem carryBit_ne_zero (sz : Size) : bySize sz 8 16 ≠ 0 := by cases sz <;> decide

theorem signBit_ne_zero (sz : Size) : bySize sz 7 15 ≠ 0 := by cases sz <;> decide

theorem getLsbD_sizeMask_carryBit (sz : Size) : (sizeMask sz).getLsbD (bySize sz 8 16) = true := by cases sz <;> rfl

theorem getLsbD_signMask_signBit (sz : Size) : (signMask sz).getLsbD (bySize sz 7 15) = true := by cases sz <;> rfl

theorem getLsbD_signMask_carryBit (sz : Size) : (signMask sz).getLsbD (bySize sz 8 16) = false := by cases sz <;> rfl

theorem getLsbD_ite_zero (b : Bool) (m : Word) (k : Nat) :
    (if b then m else 0#32).getLsbD k = (b && m.getLsbD k) := by
  cases b <;> simp

section Seed

variable (table : ParityTable) (f : Flags) (sz : Size)

/-- Above bit 0 only CF sets a bit of RZC. -/
theorem getLsbD_seed_rzc {k : Nat} (hk : k ≠ 0) :
    (seed table f sz).rzc.getLsbD k = (f.cf && (sizeMask sz).getLsbD k) := by
  cases hzf : f.zf <;> simp [seed, hzf, hk, getLsbD_ite_zero]

/-- Above bit 0 only SF sets a bit of RPS. -/
theorem getLsbD_seed_rps {k : Nat} (hk : k ≠ 0) :
    (seed table f sz).rps.getLsbD k = (f.sf && (signMask sz).getLsbD k) := by
  simp [seed, seedBase, hk, getLsbD_ite_zero]

theorem getLsbD_seed_rao (k : Nat) :
    (seed table f sz).rao.getLsbD k =
      ((f.af && (0x10#32).getLsbD k) || ((f.of ^^ f.sf) && (signMask sz).getLsbD k)) := by
  simp only [seed, BitVec.getLsbD_or, getLsbD_ite_zero]

theorem carryFlag_seed : carryFlag (seed table f sz).rzc sz = f.cf := by
  rw [carryFlag_eq, getLsbD_seed_rzc table f sz (carryBit_ne_zero sz), getLsbD_sizeMask_carryBit, Bool.and_true]

/-- Of the operand bits only bit 0 can be set, where ZF is not wanted. -/
theorem zeroFlag_seed : zeroFlag (seed table f sz).rzc sz = f.zf := by
  have hsize : sizeMask sz &&& lowMask sz = 0#32 := by cases sz <;> rfl
  have hone : 1#32 &&& lowMask sz = 1#32 := by cases sz <;> rfl
  have hlow : (seed table f sz).rzc &&& lowMask sz = if f.zf then 0#32 else 1#32 := by
    cases hcf : f.cf <;> cases hzf : f.zf <;> simp [seed, hcf, hzf, BitVec.and_or_distrib_right, hsize, hone]
  rw [zeroFlag, hlow]
  cases f.zf <;> rfl

theorem signFlag_seed : signFlag (seed table f sz).rps sz = f.sf := by
  rw [signFlag_eq, getLsbD_seed_rps table f sz (signBit_ne_zero sz), getLsbD_signMask_signBit, Bool.and_true]

theorem auxFlag_seed : auxFlag (seed table f sz).rps (seed table f sz).rao = f.af := by
  rw [auxFlag_eq, getLsbD_seed_rps table f sz (by decide), getLsbD_seed_rao]
  cases sz <;> simp

/-- RAO holds OF XOR SF at the sign bit, so that the sign bit of RPS cancels. -/
theorem overflowFlag_seed : overflowFlag (seed table f sz).rps (seed table f sz).rao sz = f.of := by
  have haux : (0x10#32).getLsbD (bySize sz 7 15) = false := by cases sz <;> rfl
  rw [overflowFlag_eq, getLsbD_seed_rps table f sz (signBit_ne_zero sz),
    getLsbD_seed_rps table f sz (carryBit_ne_zero sz), getLsbD_seed_rao, haux, getLsbD_signMask_signBit,
    getLsbD_signMask_carryBit]
  cases f.sf <;> cases f.of <;> simp

end Seed

/-- With R60's table, bit 0 beside either sign bit changes the parity, and it is set where the parity of the sign bit is
not the one wanted. -/
theorem parityFlag_seedBase (sf pf : Bool) (sz : Size) :
    parityFlag parityRom
      (seedBase sf sz ||| zext32 (parityRom.entry ((seedBase sf sz).extractLsb' 0 8) ^^ pf)) = pf := by
  cases sz <;> revert sf pf <;> decide

theorem parityFlag_seed (f : Flags) (sz : Size) : parityFlag parityRom (seed parityRom f sz).rps = f.pf :=
  parityFlag_seedBase f.sf f.pf sz

/-- Seeded flags read back as seeded, at either width (R79). -/
theorem State.flags_seedFlags (s : State) (f : Flags) (hrom : s.RomIntact) : (s.seedFlags f).flags = f := by
  simp only [State.flags, State.seedFlags_rzc, State.seedFlags_rps, State.seedFlags_rao, State.seedFlags_sz,
    State.seedFlags_parity]
  rw [hrom, carryFlag_seed, parityFlag_seed, auxFlag_seed, zeroFlag_seed, signFlag_seed, overflowFlag_seed]

/-! ### The boot sequences (R106) -/

/-- The words of SETB and SETW (R55). -/
theorem decode_setSize (szv : Size) : decode (bySize szv 0x0081#16 0x0181#16) = .ok (.wrres 0b1000#4 szv) := by
  cases szv with
  | byte => exact decode_encode (.wrres 0b1000#4 .byte)
  | word => exact decode_encode (.wrres 0b1000#4 .word)

/-- A step of SETB or SETW writes SZ alone. -/
theorem step_setSize {s : State} {p : Ports} {rest : List Ports} {szv : Size} (hpending : s.pending = p :: rest)
    (hrst : p.rst = false) (hcmd : p.cmd = bySize szv 0x0081#16 0x0181#16) :
    step s = .next { s with sz := szv, q := 0#32, ill := false, ports := p, pending := rest } :=
  stepRunsTheDecodedCommand s p rest (.wrres 0b1000#4 szv) hpending hrst rfl (hcmd ▸ decode_setSize szv)

theorem statusWordFlags_eq (v : Variant) (w : Word) (before : Bool) :
    statusWordFlags v w before =
      { cf := w.getLsbD 0, pf := w.getLsbD 2, af := w.getLsbD 4, zf := w.getLsbD 6, sf := w.getLsbD 7,
        of := byVariant v (w.getLsbD 11) before } := by
  cases v <;> rfl

/-- Settles O53: a full WRRES replaces all that the flags read, and SETB or SETW leaves a state with R60's table, which
the second step seeds. -/
theorem bootSequencesFixTheFlags : Obligations.BootSequencesFixTheFlags := by
  refine fun s szv p r rest hrom => ⟨rfl, fun hpending hp hr hcmd => ⟨fun hldfl => ?_, fun hwrsw => ?_⟩⟩
  · have hdecode : decode r.cmd = .ok .ldfl := hldfl ▸ decode_encode .ldfl
    have hsecond := fun t hnext => stepRunsTheDecodedCommand t r rest .ldfl hnext hr rfl hdecode
    refine ⟨_, _, step_setSize hpending hp hcmd, hsecond _ rfl, rfl, ?_⟩
    exact State.flags_seedFlags _ (packedFlags r.d0) hrom
  · have hdecode : decode r.cmd = .ok .wrsw := hwrsw ▸ decode_encode .wrsw
    have hsecond := fun t hnext => stepRunsTheDecodedCommand t r rest .wrsw hnext hr rfl hdecode
    refine ⟨_, _, step_setSize hpending hp hcmd, hsecond _ rfl, rfl, ?_⟩
    rw [← statusWordFlags_eq]
    exact State.flags_seedFlags _ _ hrom

end Sys2Proof.Machine
end

section
/-! Proofs for the statements of 42_flag_reads.md: the packed word of RDFL, the bits each flag reads, the flag reads as
pure reads, the engine's OF, and the six reads of one flag. -/

namespace Sys2Proof.Machine

/-! ### The packed flag word within its mask (R73) -/

theorem getLsbD_packedMask (k : Nat) (hk : k < 32) :
    (0x8D5#32).getLsbD k =
      (decide (k = 0) || decide (k = 2) || decide (k = 4) || decide (k = 6) || decide (k = 7) || decide (k = 11)) := by
  revert k
  decide

/-- Where a bit is selected by its place, its index can be read there. -/
theorem decide_and_getLsbD (v : Word) (k j : Nat) :
    (decide (k = j) && v.getLsbD j) = (decide (k = j) && v.getLsbD k) := by
  by_cases h : k = j
  · rw [h]
  · rw [decide_eq_false h, Bool.false_and, Bool.false_and]

/-- Packing the flags that LDFL reads from a word keeps the six flag bits and clears the others. -/
theorem packed_packedFlags (v : Word) : (packedFlags v).packed = v &&& 0x8D5#32 := by
  refine BitVec.eq_of_getLsbD_eq fun k hk => ?_
  rw [getLsbD_packed _ k hk, BitVec.getLsbD_and, getLsbD_packedMask k hk, Bool.and_comm (v.getLsbD k)]
  simp only [packedFlags, Bool.and_or_distrib_right, decide_and_getLsbD v k]

theorem packed_and_packedMask (f : Flags) : f.packed &&& 0x8D5#32 = f.packed := by
  rw [← packed_packedFlags, packedFlags_packed]

theorem packed_injective : Function.Injective Flags.packed :=
  Function.LeftInverse.injective packedFlags_packed

/-- Some state with R60's table has the given flags: a seed gives them (R79). -/
theorem exists_romIntact_flags_eq (f : Flags) : ∃ s : State, s.RomIntact ∧ s.flags = f :=
  ⟨(State.resetOf .i8080 0#32 0#32 0#32 .byte).seedFlags f, rfl, State.flags_seedFlags _ f rfl⟩

/-- Settles O37: unpacking the packed word gives the flags back, and a word within the mask is packed from the flags
it unpacks to, which some state has. -/
theorem rdflPacksTheSixFlags : Obligations.RdflPacksTheSixFlags := by
  refine ⟨decode_encode .rdfl, fun s => ⟨s.flags.packed, rfl, ?_⟩, fun v hv => ?_⟩
  · obtain ⟨hcf, hpf, haf, hzf, hsf, hof⟩ := Flags.mk.inj (packedFlags_packed s.flags)
    exact ⟨hcf, hpf, haf, hzf, hsf, hof, packed_and_packedMask s.flags⟩
  · obtain ⟨s, hrom, hflags⟩ := exists_romIntact_flags_eq (packedFlags v)
    refine ⟨s, _, hrom, rfl, ?_⟩
    calc s.flags.packed
      _ = v &&& 0x8D5#32 := by rw [hflags, packed_packedFlags]
      _ = v := hv

/-! ### The bits each flag reads (R75) -/

/-- Settles O38: each formula bit by bit, with the three bits of OF in the order of R75. -/
theorem flagsReadOnlyTheListedBits : Obligations.FlagsReadOnlyTheListedBits := by
  intro s
  have horder (x y z : Bool) : (x ^^ y ^^ z) = (z ^^ x ^^ y) := by rw [Bool.xor_comm, Bool.xor_assoc]
  rw [s.flags_eq_bits]
  exact ⟨rfl, rfl, rfl, rfl, rfl, congrArg₂ (bySize s.sz) (horder _ _ _) (horder _ _ _)⟩

/-! ### The flag reads drive the outputs alone (R74) -/

theorem exec_flagRead {i : Instr} (h : isFlagRead i = true) (s : State) :
    ∃ v, exec i s = .next (s.output v false) := by
  cases i with
  | rdfl | rdcf | rdpf | rdaf | rdzf | rdsf | rdof | rdsw => exact ⟨_, rfl⟩
  | nop | wrres | par | ldfl | wrsw => contradiction

/-- Settles O39: a flag read drives the outputs alone, which the second read does not see. -/
theorem flagReadsArePure : Obligations.FlagReadsArePure := by
  refine ⟨fun i s h => ?_, fun s u hrzc hrps hrao hsz hparity => ?_⟩
  · obtain ⟨v, hv⟩ := exec_flagRead h s
    exact ⟨v, hv, (exec_output i s v false).trans hv⟩
  · simp only [State.flags, hrzc, hrps, hrao, hsz, hparity]

/-! ### The engine's OF (R76) -/

/-- Flipping both sign bits of RAO inverts OF at either width, and no other flag (R29). -/
theorem flags_flip_overflow (s : State) :
    State.flags { s with rao := s.rao ^^^ 0x8080#32 } = { s.flags with of := !s.flags.of } :=
  (flags_xor_rao s Config.auxovfOf).trans (by simp)

theorem statusWord_with_of (v : Variant) (d0 : Word) (f : Flags) (b : Bool) :
    statusWord v d0 { f with of := b } = statusWord v d0 f := rfl

theorem zext32_injective : Function.Injective zext32 := by decide

theorem packed_flip_overflow_ne (f : Flags) : f.packed ≠ Flags.packed { f with of := !f.of } := by
  intro h
  exact Bool.self_ne_not f.of (congrArg Flags.of (packed_injective h))

/-- Two commands that complete differ in their results where the words they complete with do. -/
theorem complete_results {q q' : Word} (s s' : State) {p : Prop} (h : q ≠ q' ↔ p) :
    ∃ t u, complete q s = .next t ∧ complete q' s' = .next u ∧ (t.q ≠ u.q ↔ p) :=
  ⟨_, _, rfl, rfl, h⟩

/-- Settles O41: of the words the commands complete with, only those of RDOF and RDFL are functions of OF. -/
theorem engineOverflowSeenOnlyByRdofAndRdfl : Obligations.EngineOverflowSeenOnlyByRdofAndRdfl := by
  intro i s
  have hflags := flags_flip_overflow s
  cases i with
  | nop | wrres | par | ldfl | wrsw => exact complete_results _ _ (by simp)
  | rdcf | rdpf | rdaf | rdzf | rdsf => exact complete_results _ _ (by simp [hflags])
  | rdsw => exact complete_results _ _ (by simp [hflags, statusWord_with_of])
  | rdof =>
    refine complete_results _ _ (iff_of_true ?_ (.inl rfl))
    rw [hflags]
    exact zext32_injective.ne (Bool.self_ne_not _)
  | rdfl =>
    refine complete_results _ _ (iff_of_true ?_ (.inr rfl))
    rw [hflags]
    exact packed_flip_overflow_ne _

/-! ### The reads of one flag (R67 to R72) -/

/-- A command that completes with one bit answers 1 exactly where the bit's condition holds. -/
theorem complete_zext32_of_iff {b : Bool} {p : Prop} [Decidable p] (h : b = true ↔ p) (s : State) :
    complete (zext32 b) s = .next { s with q := if p then 1#32 else 0#32, ill := false } :=
  congrArg (complete · s) ((zext32_eq_ite b).trans (if_congr h rfl rfl))

/-- Settles O31: CF by its bit of RZC. -/
theorem rdcfReadsCarry : Obligations.RdcfReadsCarry :=
  ⟨decode_encode .rdcf, fun s => complete_zext32_of_iff (by rw [s.flags_eq_bits]) s⟩

/-- Settles O32: PF by the table's entry, which with R60's table is the popcount's (R59). -/
theorem rdpfReadsParity : Obligations.RdpfReadsParity := by
  refine ⟨decode_encode .rdpf, fun s => complete_zext32_of_iff (by rw [s.flags_eq_bits]) s, fun s hrom => ?_⟩
  have hpf : s.flags.pf = true ↔ popcount (s.rps.setWidth 8) % 2 = 0 := by
    rw [← parityFlag_parityRom, ← hrom]
    rfl
  exact complete_zext32_of_iff hpf s

/-- Settles O33: AF by bit 4 of RPS and RAO. -/
theorem rdafReadsAuxiliaryCarry : Obligations.RdafReadsAuxiliaryCarry :=
  ⟨decode_encode .rdaf, fun s => complete_zext32_of_iff (by rw [s.flags_eq_bits]) s⟩

/-- Settles O34: ZF by the operand bits of RZC. -/
theorem rdzfReadsZero : Obligations.RdzfReadsZero :=
  ⟨decode_encode .rdzf, fun s => complete_zext32_of_iff (by rw [s.flags_eq_bits, decide_eq_true_iff]) s⟩

/-- Settles O35: SF by the sign bit of RPS. -/
theorem rdsfReadsSign : Obligations.RdsfReadsSign :=
  ⟨decode_encode .rdsf, fun s => complete_zext32_of_iff (by rw [s.flags_eq_bits]) s⟩

/-- Settles O36: OF by its three bits. -/
theorem rdofReadsOverflow : Obligations.RdofReadsOverflow :=
  ⟨decode_encode .rdof, fun s => complete_zext32_of_iff (by rw [s.flags_eq_bits]) s⟩

end Sys2Proof.Machine
end

section
/-! Proofs for the statements of 43_flag_seeding.md, with the law of 20_memory.md section 2 that a command issued twice
leaves what it leaves once (R37). -/

namespace Sys2Proof.Machine

/-! ### Seeded flags read back (R79) -/

theorem exec_ldfl_flags (s : State) (hrom : s.RomIntact) :
    ∃ t, exec .ldfl s = .next t ∧ t.flags = packedFlags s.ports.d0 :=
  ⟨_, rfl, s.flags_seedFlags (packedFlags s.ports.d0) hrom⟩

/-- Settles O43: the flags after LDFL are those unpacked from `d0`, and RDFL packs them again. -/
theorem seededFlagsAreTheInputs : Obligations.SeededFlagsAreTheInputs := by
  intro s hrom
  obtain ⟨t, ht, hflags⟩ := exec_ldfl_flags s hrom
  obtain ⟨hcf, hpf, haf, hzf, hsf, hof⟩ := Flags.mk.inj hflags
  refine ⟨t, ht, hcf, hpf, haf, hzf, hsf, hof, ?_⟩
  calc exec .rdfl t
    _ = complete t.flags.packed t := rfl
    _ = complete (s.ports.d0 &&& 0x8D5#32) t := by rw [hflags, packed_packedFlags]
    _ = .next { t with q := s.ports.d0 &&& 0x8D5#32, ill := false } := rfl

/-! ### Issuing a command twice (R37) -/

/-- A second write of the same data leaves each register as the first left it. -/
theorem State.writeResults_writeResults (s : State) (we : BitVec 4) (szv : Size) :
    (s.writeResults we szv).writeResults we szv = s.writeResults we szv := by
  have hkeep {α : Type} (enable : Bool) (x y : α) :
      (if enable then x else if enable then x else y) = if enable then x else y := by cases enable <;> rfl
  simp only [State.writeResults, hkeep]

/-- A seed reads none of the registers it writes. -/
theorem State.seedFlags_seedFlags (s : State) (f g : Flags) : (s.seedFlags f).seedFlags g = s.seedFlags g := rfl

/-- OF reads no bit that the table decides, so a seed fixes it whatever PARITY holds. -/
theorem State.flags_seedFlags_of (s : State) (f : Flags) : (s.seedFlags f).flags.of = f.of :=
  overflowFlag_seed s.parity f s.sz

/-- WRSW seeds the same flags again once OF is what it seeded before (R85). -/
theorem statusWordFlags_of_seeded (v : Variant) (w : Word) (before : Bool) :
    statusWordFlags v w (statusWordFlags v w before).of = statusWordFlags v w before := by
  cases v <;> rfl

/-- Settles O49: no command reads the outputs, a register written with the inputs keeps them, and a seed reads of what
it writes only OF, which WRSW on PDP11 has kept. -/
theorem commandsAreIdempotent : Obligations.CommandsAreIdempotent := by
  intro i s t h
  obtain ⟨q, rfl⟩ | ⟨we, szv, rfl, rfl⟩ | ⟨rfl, rfl⟩ | ⟨rfl, rfl⟩ := exec_next_cases i s t h
  · exact (exec_output i s q false).trans h
  · rw [exec_output]
    exact congrArg (complete 0#32) (s.writeResults_writeResults we szv)
  · rw [exec_output]
    exact congrArg (complete 0#32) (s.seedFlags_seedFlags _ _)
  · rw [exec_output]
    refine congrArg (complete 0#32) ?_
    rw [State.seedFlags_seedFlags, State.flags_seedFlags_of]
    exact congrArg s.seedFlags (statusWordFlags_of_seeded s.variant s.ports.d0 s.flags.of)

/-! ### The seeded contents (R78) -/

theorem sizeMask_eq_bySize (sz : Size) : sizeMask sz = bySize sz 0x100#32 0x10000#32 := by cases sz <;> rfl

theorem signMask_eq_bySize (sz : Size) : signMask sz = bySize sz 0x80#32 0x8000#32 := by cases sz <;> rfl

/-- The carry bit of a width is never bit 0, so the two parts of RZC add up. -/
theorem seed_rzc_eq (table : ParityTable) (f : Flags) (sz : Size) :
    (seed table f sz).rzc =
      (if f.cf then bySize sz 0x100#32 0x10000#32 else 0#32) + (if f.zf then 0#32 else 1#32) := by
  have hdisjoint : (if f.cf then sizeMask sz else 0#32) &&& (if f.zf then 0#32 else 1#32) = 0#32 := by
    cases sz <;> cases f.cf <;> cases f.zf <;> decide
  rw [← sizeMask_eq_bySize, BitVec.add_eq_or_of_and_eq_zero _ _ hdisjoint, seed]

/-- The sign bit of a width is never bit 4, so the two parts of RAO add up. -/
theorem seed_rao_eq (table : ParityTable) (f : Flags) (sz : Size) :
    (seed table f sz).rao =
      (if f.af then 0x10#32 else 0#32) + (if f.of ^^ f.sf then bySize sz 0x80#32 0x8000#32 else 0#32) := by
  have hdisjoint : (if f.af then 0x10#32 else 0#32) &&& (if f.of ^^ f.sf then signMask sz else 0#32) = 0#32 := by
    cases sz <;> cases f.af <;> cases f.of ^^ f.sf <;> decide
  rw [← signMask_eq_bySize, BitVec.add_eq_or_of_and_eq_zero _ _ hdisjoint, seed]

/-- The low byte of the sign bit is even at word width, where it is 0x00, and odd at byte width, where it is 0x80. -/
theorem seed_rps_parityRom (f : Flags) (sz : Size) :
    (seed parityRom f sz).rps =
      if f.sf then (if f.pf then bySize sz 0x0081#32 0x8000#32 else bySize sz 0x0080#32 0x8001#32)
      else (if f.pf then 0x0000#32 else 0x0001#32) := by
  simp only [seed]
  cases sz <;> cases f.sf <;> cases f.pf <;> decide

/-- Settles O42: the seed register by register, with R60's table for the parity of the sign bit. -/
theorem ldflSeedsTheRegisters : Obligations.LdflSeedsTheRegisters := by
  refine ⟨decode_encode .ldfl, fun s hrom => (complete_eq_next _ _ _).2 ?_⟩
  have hrps := seed_rps_parityRom (packedFlags s.ports.d0) s.sz
  rw [← hrom] at hrps
  rw [State.seedFlags, seed_rzc_eq, hrps, seed_rao_eq]
  rfl

end Sys2Proof.Machine
end

section
/-! Proofs for the statements of 44_status_word.md about the two commands: RDSW bit by bit (R83), and WRSW as a seed
(R84, R85). -/

namespace Sys2Proof.Machine

/-! ### The status word that RDSW assembles (R83) -/

/-- The RESULT group is the packed flag word without OF (R76). -/
theorem resultBits_eq_packed (f : Flags) : f.resultBits = Flags.packed { f with of := false } :=
  (BitVec.or_zero (x := f.resultBits)).symm

/-- No status word has a bit above bit 11, the highest of DIRECT_MASK (R82). -/
theorem toNat_statusBits_lt (v : Variant) (d0 : Word) (f : Flags) :
    (fixedOne ||| directBits v d0 ||| f.resultBits).toNat < 2 ^ 12 := by
  have hdirect : (directBits v d0).toNat < 2 ^ 12 := by
    rw [directBits, BitVec.toNat_and]
    exact Nat.and_lt_two_pow _ (by cases v <;> decide)
  have hresult : f.resultBits.toNat < 2 ^ 12 := by
    rw [resultBits_eq_packed, ← packed_and_packedMask, BitVec.toNat_and]
    exact Nat.and_lt_two_pow _ (by decide)
  rw [BitVec.toNat_or, BitVec.toNat_or]
  exact Nat.or_lt_two_pow (Nat.or_lt_two_pow (by decide) hdirect) hresult

/-- The cut to 16 bits and the zero-extension of R83 lose nothing. -/
theorem setWidth_statusWord (v : Variant) (d0 : Word) (f : Flags) :
    (statusWord v d0 f).setWidth 32 = fixedOne ||| directBits v d0 ||| f.resultBits := by
  have hlt := toNat_statusBits_lt v d0 f
  apply BitVec.eq_of_toNat_eq
  rw [BitVec.toNat_setWidth_of_le (by decide), statusWord, BitVec.extractLsb'_toNat, Nat.shiftRight_zero,
    Nat.mod_eq_of_lt (by omega)]

theorem exec_rdsw (s : State) :
    exec .rdsw s = .next (s.output (fixedOne ||| directBits s.variant s.ports.d0 ||| s.flags.resultBits) false) :=
  congrArg (complete · s) (setWidth_statusWord s.variant s.ports.d0 s.flags)

/-- Settles O45: each bit of the OR of the fixed bit, the masked direct bits and the RESULT group. -/
theorem rdswAssemblesTheStatusWord : Obligations.RdswAssemblesTheStatusWord := by
  refine ⟨decode_encode .rdsw, fun s => ⟨_, exec_rdsw s, ?_⟩⟩
  have hlt := toNat_statusBits_lt s.variant s.ports.d0 s.flags
  cases hv : s.variant with
  | i8080 | pdp11 => simpa [fixedOne, directBits, Flags.resultBits, byVariant, hv] using hlt

/-! ### WRSW as a seed (R84, R85) -/

/-- LDFL reads the flags that WRSW seeds from the RESULT bits of `w` with the OF of R85 at bit 11. -/
theorem packedFlags_seedWord (v : Variant) (w : Word) (before : Bool) :
    packedFlags ((w &&& 0xD5#32) ||| (if byVariant v (w.getLsbD 11) before then 0x800#32 else 0#32)) =
      statusWordFlags v w before := by
  rw [statusWordFlags_eq]
  cases byVariant v (w.getLsbD 11) before <;> simp [packedFlags]

/-- Settles O46: WRSW seeds the flags of R84, which a state with R60's table gives back, and LDFL seeds the same. -/
theorem wrswSeedsFromTheStatusWord : Obligations.WrswSeedsFromTheStatusWord := by
  refine ⟨decode_encode .wrsw, fun s hrom => ⟨_, rfl, rfl, ?_, ?_⟩⟩
  · rw [← statusWordFlags_eq]
    exact s.flags_seedFlags _ hrom
  · rw [← packedFlags_seedWord]
    rfl

end Sys2Proof.Machine
end

section
/-! Proofs for the statements of 44_status_word.md about the status words: which are legal and how many (R86), and that
one written is read back (R87). -/

namespace Sys2Proof.Machine

/-! ### The legal status words (R86) -/

/-- RESULT_MASK | DIRECT_MASK of R82: the bits a legal word is free to choose. -/
def freeBits (v : Variant) : BitVec 16 := byVariant v 0x0AD5#16 0x02D5#16

theorem setWidth_freeBits (v : Variant) : (freeBits v).setWidth 32 = directMask v ||| resultMask := by
  cases v <;> rfl

theorem setWidth_or_freeBits (v : Variant) : (0x0002#16 ||| freeBits v).setWidth 32 = legalMask v := by
  cases v <;> rfl

theorem and_not_eq_zero_iff {n : Nat} (x m : BitVec n) : x &&& ~~~m = 0#n ↔ x &&& m = x := by
  constructor <;> intro h
  · calc x &&& m
      _ = x &&& m ||| x &&& ~~~m := by rw [h, BitVec.or_zero]
      _ = x := by rw [← BitVec.and_or_distrib_left, BitVec.or_not_self, BitVec.and_allOnes]
  · rw [← h, BitVec.and_assoc, BitVec.and_not_self]
    exact BitVec.and_zero

/-- R86 in 16 bits, with LEGAL_MASK put together from the fixed bit and the free bits. -/
theorem legalStatusWord_iff (v : Variant) (w : BitVec 16) :
    legalStatusWord v w = true ↔ w &&& ~~~(0x0002#16 ||| freeBits v) = 0#16 ∧ w.getLsbD 1 = true := by
  have hwidth : (w &&& (0x0002#16 ||| freeBits v)).setWidth 32 = w.setWidth 32 ↔
      w &&& (0x0002#16 ||| freeBits v) = w :=
    ⟨fun h => by simpa using congrArg (BitVec.setWidth 16) h, congrArg _⟩
  rw [legalStatusWord, Bool.and_eq_true, beq_iff_eq, and_not_eq_zero_iff, and_not_eq_zero_iff, ← hwidth,
    BitVec.setWidth_and, setWidth_or_freeBits]

theorem and_fixedBit (w : BitVec 16) : w &&& 0x0002#16 = if w.getLsbD 1 then 0x0002#16 else 0#16 :=
  BitVec.and_twoPow w 1

/-- A legal word is one that forcing the reserved bits leaves as it is. -/
theorem legalStatusWord_iff_forced (v : Variant) (w : BitVec 16) :
    legalStatusWord v w = true ↔ 0x0002#16 ||| (w &&& freeBits v) = w := by
  rw [legalStatusWord_iff, and_not_eq_zero_iff, BitVec.and_or_distrib_left]
  constructor
  · rintro ⟨hmask, hone⟩
    rwa [and_fixedBit, if_pos hone] at hmask
  · intro h
    have hone : w.getLsbD 1 = true := by
      rw [← h]
      simp
    exact ⟨by rwa [and_fixedBit, if_pos hone], hone⟩

theorem fixedBit_or_and_freeBits (v : Variant) (x : BitVec 16) :
    (0x0002#16 ||| x) &&& freeBits v = x &&& freeBits v := by
  have hfixed : 0x0002#16 &&& freeBits v = 0#16 := by cases v <;> rfl
  rw [BitVec.and_or_distrib_right, hfixed, BitVec.zero_or]

theorem legalStatusWord_iff_exists (v : Variant) (w : BitVec 16) :
    legalStatusWord v w = true ↔ ∃ x : BitVec 16, x &&& freeBits v = x ∧ w = 0x0002#16 ||| x := by
  rw [legalStatusWord_iff_forced]
  constructor
  · intro h
    exact ⟨w &&& freeBits v, by rw [BitVec.and_assoc, BitVec.and_self], h.symm⟩
  · rintro ⟨x, hx, rfl⟩
    rw [fixedBit_or_and_freeBits, hx]

/-! ### The words within a mask, listed by the places of its bits -/

/-- The word with the bits at some places set. -/
def bitsAt : List Nat → BitVec 16
  | [] => 0#16
  | k :: ks => BitVec.twoPow 16 k ||| bitsAt ks

/-- The words whose bits are among some places: those without the first place, then those with it. -/
def subwords : List Nat → List (BitVec 16)
  | [] => [0#16]
  | k :: ks => subwords ks ++ (subwords ks).map fun x => BitVec.twoPow 16 k ||| x

theorem length_subwords (ks : List Nat) : (subwords ks).length = 2 ^ ks.length := by
  induction ks with
  | nil => rfl
  | cons k ks ih => rw [subwords, List.length_append, List.length_map, ih, List.length_cons, Nat.pow_succ, Nat.mul_two]

theorem or_and_or_left (x y z : BitVec 16) : (x ||| y) &&& (x ||| z) = x ||| (y &&& z) := by
  ext i hi
  simp only [BitVec.getElem_and, BitVec.getElem_or, Bool.or_and_distrib_left]

theorem and_or_self_right (x y : BitVec 16) : x &&& (y ||| x) = x := by
  ext i hi
  rw [BitVec.getElem_and, BitVec.getElem_or]
  cases x[i] <;> simp

/-- A word within a mask is the rest of it beside the first place, with that place or without. -/
theorem mem_subwords (ks : List Nat) (w : BitVec 16) : w ∈ subwords ks ↔ w &&& bitsAt ks = w := by
  induction ks generalizing w with
  | nil => simp [subwords, bitsAt, eq_comm (a := w)]
  | cons k ks ih =>
    simp only [subwords, bitsAt, List.mem_append, List.mem_map, ih]
    constructor
    · rintro (h | ⟨x, hx, rfl⟩)
      · rw [← h, BitVec.and_assoc, and_or_self_right]
      · rw [or_and_or_left, hx]
    · intro h
      rw [BitVec.and_or_distrib_left, BitVec.and_twoPow] at h
      split at h
      · exact .inr ⟨w &&& bitsAt ks, by rw [BitVec.and_assoc, BitVec.and_self], h⟩
      · exact .inl (by rwa [BitVec.zero_or] at h)

theorem getLsbD_bitsAt (ks : List Nat) {k : Nat} (hk : k < 16) : (bitsAt ks).getLsbD k = decide (k ∈ ks) := by
  induction ks with
  | nil => exact BitVec.getLsbD_zero
  | cons j ks ih =>
    rw [bitsAt, BitVec.getLsbD_or, ih]
    simp [hk]

theorem twoPow_and_bitsAt {ks : List Nat} {k : Nat} (hk : k < 16) (hmem : k ∉ ks) :
    BitVec.twoPow 16 k &&& bitsAt ks = 0#16 := by
  rw [BitVec.and_comm, BitVec.and_twoPow, getLsbD_bitsAt ks hk, if_neg (by simpa using hmem)]

/-- Clearing the first place undoes setting it, and no word without that place has it. -/
theorem nodup_subwords {ks : List Nat} (hks : ks.Nodup) (hlt : ∀ k ∈ ks, k < 16) : (subwords ks).Nodup := by
  induction ks with
  | nil => exact List.nodup_singleton _
  | cons k ks ih =>
    obtain ⟨hmem, hks⟩ := List.nodup_cons.1 hks
    obtain ⟨hk, hlt⟩ := List.forall_mem_cons.1 hlt
    have hclear : ∀ x ∈ subwords ks, (BitVec.twoPow 16 k ||| x) &&& bitsAt ks = x := fun x hx => by
      rw [BitVec.and_or_distrib_right, twoPow_and_bitsAt hk hmem, (mem_subwords ks x).1 hx, BitVec.zero_or]
    have hwithout : ∀ x ∈ subwords ks, x.getLsbD k = false := fun x hx => by
      rw [← (mem_subwords ks x).1 hx, BitVec.getLsbD_and, getLsbD_bitsAt ks hk, decide_eq_false hmem, Bool.and_false]
    refine List.nodup_append.2 ⟨ih hks hlt, (ih hks hlt).map_on fun x hx y hy h => ?_, fun w hw x hx h => ?_⟩
    · rw [← hclear x hx, h, hclear y hy]
    · obtain ⟨y, -, rfl⟩ := List.mem_map.1 hx
      have hbit := hwithout w hw
      rw [h] at hbit
      simp [hk] at hbit

/-! ### The legal status words counted (R86) -/

/-- The places of the free bits (R82). -/
def freePlaces (v : Variant) : List Nat := byVariant v [0, 2, 4, 6, 7, 9, 11] [0, 2, 4, 6, 7, 9]

theorem bitsAt_freePlaces (v : Variant) : bitsAt (freePlaces v) = freeBits v := by
  cases v <;> rfl

/-- The legal status words, 0x0002 with each choice of the free bits. -/
def legalStatusWords (v : Variant) : List (BitVec 16) := (subwords (freePlaces v)).map fun x => 0x0002#16 ||| x

theorem length_legalStatusWords (v : Variant) : (legalStatusWords v).length = byVariant v 128 64 := by
  rw [legalStatusWords, List.length_map, length_subwords]
  cases v <;> rfl

theorem mem_legalStatusWords (v : Variant) (w : BitVec 16) :
    w ∈ legalStatusWords v ↔ legalStatusWord v w = true := by
  simp only [legalStatusWords, List.mem_map, mem_subwords, bitsAt_freePlaces, legalStatusWord_iff_exists,
    eq_comm (b := w)]

theorem nodup_legalStatusWords (v : Variant) : (legalStatusWords v).Nodup := by
  have hsub : (subwords (freePlaces v)).Nodup := nodup_subwords (by cases v <;> decide) (by cases v <;> decide)
  refine hsub.map_on fun x hx y hy h => ?_
  rw [mem_subwords, bitsAt_freePlaces] at hx hy
  rw [← hx, ← fixedBit_or_and_freeBits, h, fixedBit_or_and_freeBits, hy]

/-- Settles O47: a legal word is 0x0002 with its own free bits, and the list takes each choice of them once. -/
theorem legalStatusWordsAreCounted : Obligations.LegalStatusWordsAreCounted := by
  refine fun v => ⟨legalStatusWord_iff_exists v, legalStatusWords v, length_legalStatusWords v,
    nodup_legalStatusWords v, fun w => ?_⟩
  rw [mem_legalStatusWords, legalStatusWord_iff]
  cases v <;> rfl

/-! ### The round trip (R87) -/

theorem resultBits_statusWordFlags (v : Variant) (w : Word) (before : Bool) :
    (statusWordFlags v w before).resultBits = w &&& resultMask := by
  have hunpack : { statusWordFlags v w before with of := false } = packedFlags (w &&& resultMask) := by
    simp [statusWordFlags, packedFlags, resultMask]
  rw [resultBits_eq_packed, hunpack, packed_packedFlags, BitVec.and_assoc]
  rfl

/-- What RDSW joins where the direct bits presented and the flags are both those of `w`. -/
theorem statusBits_of_written (v : Variant) (w : BitVec 16) (before : Bool) :
    fixedOne ||| directBits v ((w &&& byVariant v 0x0A00#16 0x0200#16).setWidth 32) |||
        (statusWordFlags v (w.setWidth 32) before).resultBits =
      (0x0002#16 ||| (w &&& freeBits v)).setWidth 32 := by
  have hdirect : directBits v ((w &&& byVariant v 0x0A00#16 0x0200#16).setWidth 32) =
      w.setWidth 32 &&& directMask v := by
    rw [directBits, BitVec.setWidth_and, BitVec.and_assoc]
    cases v <;> rfl
  rw [hdirect, resultBits_statusWordFlags, BitVec.or_assoc, ← BitVec.and_or_distrib_left, BitVec.setWidth_or,
    BitVec.setWidth_and, setWidth_freeBits]
  rfl

/-- A step of WRSW leaves the flags it seeds, with R60's table, and the inputs that come after its own. -/
theorem step_wrsw {s : State} {p : Ports} {rest : List Ports} (hrom : s.RomIntact) (hpending : s.pending = p :: rest)
    (hrst : p.rst = false) (hcmd : p.cmd = 0x000C#16) :
    ∃ t, step s = .next t ∧ t.flags = statusWordFlags s.variant p.d0 s.flags.of ∧ t.variant = s.variant ∧
      t.pending = rest := by
  refine ⟨_, stepRunsTheDecodedCommand s p rest .wrsw hpending hrst rfl (hcmd ▸ decode_encode .wrsw), ?_, rfl, rfl⟩
  exact State.flags_seedFlags _ _ hrom

theorem step_rdsw {s : State} {p : Ports} {rest : List Ports} (hpending : s.pending = p :: rest)
    (hrst : p.rst = false) (hcmd : p.cmd = 0x000B#16) :
    ∃ t, step s = .next t ∧ t.q = fixedOne ||| directBits s.variant p.d0 ||| s.flags.resultBits := by
  have hexec := stepRunsTheDecodedCommand s p rest .rdsw hpending hrst rfl (hcmd ▸ decode_encode .rdsw)
  exact ⟨_, hexec.trans (exec_rdsw _), rfl⟩

/-- Settles O48: RDSW joins the direct bits presented to it and the RESULT bits that WRSW seeded, which are `w` with its
reserved bits forced, and forcing leaves a legal word as it is. -/
theorem statusWordRoundTrip : Obligations.StatusWordRoundTrip := by
  intro s w a b c d rest hrom hpending
  obtain ⟨t, ht, hflags, hvariant, hrest⟩ := step_wrsw hrom hpending rfl rfl
  obtain ⟨u, hu, hq⟩ := step_rdsw hrest rfl rfl
  rw [hflags, hvariant, statusBits_of_written] at hq
  refine ⟨t, u, ht, hu, hq, fun hlegal => ?_⟩
  rw [hq, (legalStatusWord_iff_forced s.variant w).1 hlegal]

end Sys2Proof.Machine
end

section
/-! Proof for the statement of 60_exceptions.md: no command stops, and none writes PARITY, VARIANT, the inputs, the
requester's list or the reset counter. -/

namespace Sys2Proof.Machine

/-- Settles O7: every command goes on (R89), and what goes on keeps the fields no command writes, with `ill = 0` (R50,
R62, R9). -/
theorem everyCommandCompletes : Obligations.EveryCommandCompletes := by
  intro i s
  obtain ⟨t, hexec⟩ := exec_goes_on i s
  obtain ⟨hparity, hvariant, hports, hpending, hresets, hill⟩ := exec_next_keeps i s t hexec
  exact ⟨t, hexec, hill, hparity, hvariant, hports, hpending, hresets⟩

end Sys2Proof.Machine
end

section
/-! Proof for the statement of 70_reset_and_hazards.md section 4: a debugger's read of the status word (R114). -/

namespace Sys2Proof.Machine

theorem run_succ_eq_of_step_eq (k : Nat) {s t : State} (h : step s = step t) : run (k + 1) s = run (k + 1) t := by
  rw [run, run, h]

/-- Settles O52: the RDSW leaves the inputs after its own and changes the outputs and the port values alone, and no step
depends on those (R15, R74). -/
theorem debuggerReadDisturbsNothing : Obligations.DebuggerReadDisturbsNothing := by
  intro s p rest k hrst hcmd
  have hdecode : decode p.cmd = .ok .rdsw := hcmd ▸ decode_encode .rdsw
  have hread := stepRunsTheDecodedCommand { s with pending := p :: rest } p rest .rdsw rfl hrst rfl hdecode
  calc run (k + 2) { s with pending := p :: rest }
    _ = run (k + 1) _ := run_succ (k + 1) _ _ (hread.trans (exec_rdsw _))
    _ = run (k + 1) { s with pending := rest } :=
      run_succ_eq_of_step_eq k (portValuesAreNotState { s with pending := rest } _ _ _)

end Sys2Proof.Machine
end

section
/-! Proofs for the statements of 70_reset_and_hazards.md about reset (R102 to R105, R31), and about a change of width
after a seed (R109 on the contents of R78). -/

namespace Sys2Proof.Machine

/-! ### Reset -/

/-- Settles O13: reset wins over the command (R91), so the step is the reset step on the inputs presented. -/
theorem resetStepLoadsTheDraw : Obligations.ResetStepLoadsTheDraw := by
  intro s p rest hpending hrst
  rw [step_reset s (s.nextPorts_cons p rest hpending ▸ hrst), s.present_cons p rest hpending]
  rfl

/-- Settles O14: `State.reset` is the reset state of draw 0, and its table is R60's, entry by entry. -/
theorem resetStateFields : Obligations.ResetStateFields :=
  ⟨rfl, rfl, parityRom_getLsbD, rfl, rfl, rfl, rfl⟩

/-- Settles O20: the seed for the flags wanted is such contents, since a reset state has R60's table, with which seeded
flags read back (R79). -/
theorem someResetContentsGiveEachFlagCombination : Obligations.SomeResetContentsGiveEachFlagCombination :=
  fun v f sz => ⟨_, _, _, State.flags_seedFlags (State.resetOf v 0#32 0#32 0#32 sz) f rfl⟩

/-! ### The seeded contents at the other width -/

/-- The width that SZ does not select. -/
def otherWidth (sz : Size) : Size := bySize sz .word .byte

theorem getLsbD_sizeMask_otherCarryBit (sz : Size) : (sizeMask sz).getLsbD (bySize (otherWidth sz) 8 16) = false := by
  cases sz <;> rfl

theorem getLsbD_signMask_otherSignBit (sz : Size) : (signMask sz).getLsbD (bySize (otherWidth sz) 7 15) = false := by
  cases sz <;> rfl

theorem getLsbD_signMask_otherCarryBit (sz : Size) : (signMask sz).getLsbD (bySize (otherWidth sz) 8 16) = false := by
  cases sz <;> rfl

section Seed

variable (table : ParityTable) (f : Flags) (sz : Size)

/-- The carry bit of the width seeded, which alone CF sets, is not that of the other width. -/
theorem carryFlag_seed_otherWidth : carryFlag (seed table f sz).rzc (otherWidth sz) = false := by
  rw [carryFlag_eq, getLsbD_seed_rzc table f sz (carryBit_ne_zero _), getLsbD_sizeMask_otherCarryBit, Bool.and_false]

/-- The carry bit of byte width is an operand bit of word width, and that of word width none of byte width. -/
theorem zeroFlag_seed_otherWidth :
    zeroFlag (seed table f sz).rzc (otherWidth sz) = bySize sz (!f.cf && f.zf) f.zf := by
  simp only [zeroFlag, seed]
  cases sz <;> cases f.cf <;> cases f.zf <;> rfl

theorem signFlag_seed_otherWidth : signFlag (seed table f sz).rps (otherWidth sz) = false := by
  rw [signFlag_eq, getLsbD_seed_rps table f sz (signBit_ne_zero _), getLsbD_signMask_otherSignBit, Bool.and_false]

/-- None of the three bits that OF reads at the other width is seeded. -/
theorem overflowFlag_seed_otherWidth :
    overflowFlag (seed table f sz).rps (seed table f sz).rao (otherWidth sz) = false := by
  have haux : (0x10#32).getLsbD (bySize (otherWidth sz) 7 15) = false := by cases sz <;> rfl
  rw [overflowFlag_eq, getLsbD_seed_rps table f sz (signBit_ne_zero _),
    getLsbD_seed_rps table f sz (carryBit_ne_zero _), getLsbD_seed_rao, haux, getLsbD_signMask_otherSignBit,
    getLsbD_signMask_otherCarryBit]
  simp only [Bool.and_false, Bool.or_false, Bool.xor_false]

end Seed

/-- A seed read at the other width loses CF, SF and OF, and at byte width ZF where CF was seeded; PF and AF do not read
SZ. -/
theorem State.flags_seedFlags_otherWidth (s : State) (f : Flags) (hrom : s.RomIntact) :
    State.flags { s.seedFlags f with sz := otherWidth s.sz } =
      { cf := false, pf := f.pf, af := f.af, zf := bySize s.sz (!f.cf && f.zf) f.zf, sf := false, of := false } := by
  simp only [State.flags, State.seedFlags_rzc, State.seedFlags_rps, State.seedFlags_rao, State.seedFlags_parity]
  rw [carryFlag_seed_otherWidth, zeroFlag_seed_otherWidth, signFlag_seed_otherWidth, overflowFlag_seed_otherWidth,
    auxFlag_seed, hrom, parityFlag_seed]

/-- Settles O44: LDFL leaves SZ (R80) and the write of the width leaves the seeded registers, so that the flags are
those of the seed at the other width. -/
theorem widthChangeAfterSeedLosesFlags : Obligations.WidthChangeAfterSeedLosesFlags :=
  fun s hrom => ⟨_, _, rfl, rfl, rfl, s.flags_seedFlags_otherWidth (packedFlags s.ports.d0) hrom⟩

end Sys2Proof.Machine
end

section
/-! Proof for the statement about ill-formed assembler statements (assumption log 15): the limits of 30_encoding.md R54,
and what breaks them. -/

namespace Sys2Proof.Asm

theorem Stmt.wf_wrres_eq_false_of_operand {os : List WrresOperand} {o : WrresOperand} (ho : o ∈ os)
    (h : o.wf = false) : (Stmt.wrres os).wf = false := by
  refine Bool.eq_false_iff.2 fun hwf => ?_
  obtain ⟨-, hall⟩ := (Stmt.wf_wrres os).1 hwf
  exact Bool.eq_false_iff.1 h (hall o ho)

/-- Operands that name the same, anywhere in the list, break the limit of one of each name. -/
theorem Stmt.wf_wrres_eq_false_of_named_twice (a b c : List WrresOperand) {o o' : WrresOperand}
    (h : o.name = o'.name) : (Stmt.wrres (a ++ o :: b ++ o' :: c)).wf = false := by
  refine Bool.eq_false_iff.2 fun hwf => ?_
  obtain ⟨hnames, -⟩ := (Stmt.wf_wrres _).1 hwf
  rw [List.map_append, List.nodup_append] at hnames
  obtain ⟨-, -, hdisjoint⟩ := hnames
  exact hdisjoint o.name (by simp) o'.name (by simp) h

theorem Stmt.wf_ldres_eq_false {r a : Value} (size : Size) (h : r.wf = false ∨ a.wf = false) :
    (Stmt.ldres r a size).wf = false :=
  Bool.and_eq_false_iff.2 h

/-- Settles O57: every statement listed is ill formed, by its number or by its two operands of one name, and so drives
nothing. -/
theorem illFormedStatementsDriveNothing : Obligations.IllFormedStatementsDriveNothing := by
  refine ⟨fun st => assemble_of_not_wf, fun z hz => ?_, fun v hv st hst => assemble_of_not_wf ?_,
    fun a b c o o' hname => assemble_of_not_wf (Stmt.wf_wrres_eq_false_of_named_twice a b c hname)⟩
  · rw [← Bool.not_eq_true, Value.wf_dec]
    omega
  · have hwrres (o : WrresOperand) (ho : o.wf = false) : (Stmt.wrres [o]).wf = false :=
      Stmt.wf_wrres_eq_false_of_operand (List.mem_singleton_self o) ho
    simp only [List.mem_cons, List.not_mem_nil, or_false] at hst
    obtain rfl | rfl | rfl | rfl | rfl | rfl | rfl | rfl | rfl | rfl | rfl | rfl := hst
    iterate 7 exact hv
    · exact hwrres (.zc v) hv
    · exact hwrres (.ps v) hv
    · exact hwrres (.ao v) hv
    · exact Stmt.wf_ldres_eq_false _ (.inl hv)
    · exact Stmt.wf_ldres_eq_false _ (.inr hv)

end Sys2Proof.Asm
end
